-- ==== Sys2Proof/Word.lean ====
section
/-! DEFINITION. The words of the ZS416: bytes, 16-bit counts, station and owner numbers.
Station and owner numbers run 0 to 15 (00, section 4). Lock numbers travel as bytes (05 R89). -/
namespace Sys2Proof

abbrev Byte := BitVec 8

abbrev Word16 := BitVec 16

/-- A station number, 0 to 15. -/
abbrev Station := Fin 16

/-- An owner number, 0 to 15: a local task identity that the host chooses. -/
abbrev Owner := Fin 16

end Sys2Proof
end

