-- ==== Sys2Proof/Syntax.lean ====
section
/-! DEFINITION. The commands of the ZS416: one constructor for each row of spec/opcode_table.json,
with the data that the row's event brings from outside the part. -/
namespace Sys2Proof

/-- A level of the peer line (03 R70). -/
inductive Level where
  | dominant
  | recessive
  deriving DecidableEq, Repr

/-- The strap pins, sampled at the release of RESET (10 R176, Table 10-1). -/
structure Straps where
  /-- STN3 to STN0: the station number. -/
  station : Station
  /-- LSP1 to LSP0: the lock space, L = 64 times (this + 1). -/
  lspace : BitVec 2
  /-- TSEL: false the internal divider, true the TICK pin. -/
  tsel : Bool
  /-- LRT1 to LRT0: the line rate. -/
  rate : BitVec 2
  deriving DecidableEq, Repr

/-- Where a tick comes from (08 R136). -/
inductive TickSource where
  /-- The internal divider has counted a millisecond. -/
  | divider
  /-- A rising edge on the TICK pin, this many REFCLK cycles after the last edge taken. -/
  | pinEdge (cycles : Nat)
  deriving DecidableEq, Repr

/-- A tick and what the line shows at it. -/
structure Tick where
  source : TickSource
  /-- Whether the line is quiet: recessive with no transmission in progress, and so since the SETUP, or the end of the
  misplaced slot, that found the line unobserved. It is read on an unobserved line alone (10 R181, 05 R87; log 40). -/
  quiet : Bool
  deriving DecidableEq, Repr

/-- Who sends a start mark (03 R51). -/
inductive MarkSource where
  /-- This station sends it (alone or together with others). -/
  | own
  /-- Another station sends it and this one hears it. -/
  | other
  deriving DecidableEq, Repr

/-- What the host port sees of an access besides its direction (11 R184): the strobes, and the REFCLK
cycles since the previous access ended. -/
structure HostAccess where
  bothStrobes : Bool
  idleCycles : Nat
  deriving DecidableEq, Repr

/-- The commands: the rows of the table, in its order. -/
inductive Instr where
  | hardwareReset
  | resetRelease (straps : Straps)
  | tick (tick : Tick)
  | idleMeasureExpiry
  | waitTimerExpiry (owner : Owner) (lock : Byte)
  | ownSilenceExpiry
  | silenceCountdownExpiry (v : Station)
  | isolationExpiry
  | joinWaitExpiry
  | rejoinTimerExpiry
  | lineIdleGap
  | startMark (source : MarkSource)
  /-- The slots that other stations assert (bit n for slot n), and whether the line is dominant at the
  frame-start bit because another station sends. -/
  | windowClose (slots : BitVec 16) (frameStart : Bool)
  /-- The levels of the line from the frame-start bit on, as sampled (03 R69). Where the frame ends among them a receiver
  reads from the length field of its own copy (05 R87); levels beyond that end are not the frame's. -/
  | frameEnd (levels : List Level)
  /-- The marks that other stations assert in the slot, and whether the slot stands at its true place
  on the line (05 R87). -/
  | vetoSlotEnd (markE markF inPlace : Bool)
  | applyClaim
  | applyFree
  | applyWithdraw
  | applyJoin
  | applyFound
  | applyLeave
  | applyEvict
  | applyRefuse
  | applySnaphead
  | applySnapdata
  | applyAlive
  | claimOutcome
  | freeOutcome
  | withdrawOutcome
  | grantNotice
  | lockFrameOnLine
  | lockFrameAccepted
  | lockFrameVetoed
  | ownJoinApplied
  | ownFoundApplied
  | otherFoundApplied
  | ownSnapheadTaken
  | ownSnapdataTaken
  | membershipItemRemoved
  | refuseTaken
  | ownLeaveApplied
  | evictNamingSelf
  | donorDutyEvaluation
  | presenceHandOver
  | drop
  | kindByteWrite (access : HostAccess) (value : Byte)
  | argumentByteWrite (access : HostAccess) (value : Byte)
  | replyRead (access : HostAccess)
  | setup
  | join
  | detach
  | acquire
  | release
  | cancel
  | queryLock
  | queryMembers
  | queryStation
  | ack
  | ownSlotBegins
  | dominantPulse
  deriving DecidableEq, Repr

end Sys2Proof
end

