-- ==== Sys2Proof/Decode.lean ====
section
/-! DEFINITION. The words that spell a command. No row of spec/opcode_table.json gives bits: the commands
are events of the part, not encoded instructions. (The frames of the peer line and the messages of the host
port have encodings; they are in Machine/FrameFormat.lean and Machine/HostPort.lean.) -/
namespace Sys2Proof

/-- The command that the word w of nbits bits spells by the table's bits: none, for the table gives no row
any bits. -/
def decodeTableWord (_nbits _w : Nat) : Option Instr := none

end Sys2Proof
end

