-- ==== Sys2Proof/Config.lean ====
section
/-! DEFINITION. What the ZS416 fixes for every part, and the one value its manual leaves undefined. -/
namespace Sys2Proof.Config

/-- The protocol level of the ZS416 (02 R33, 05 R90). -/
abbrev protocolLevel : Byte := 1

/-- Waiter records of the pool (01 R5). -/
abbrev poolSize : Nat := 128

/-- Waiter records of one queue (01 R3, R17). -/
abbrev queueLimit : Nat := 16

/-- Waiter records of one station, the quota (01 R6, R17). -/
abbrev quota : Nat := 16

/-- Holders of one SHARED entry (01 R1, R8). -/
abbrev holderLimit : Nat := 8

/-- Stations on the join list (02 R32). -/
abbrev joinListLimit : Nat := 15

/-- Frames of the apply queue (04 R71). -/
abbrev applyQueueLimit : Nat := 4

/-- Bytes of the longest payload (05 R86). -/
abbrev payloadLimit : Nat := 96

/-- Live operations plus replies (07 R111). -/
abbrev operationLimit : Nat := 32

/-- Hold records plus live ACQUIREs (07 R114, R116). -/
abbrev holdLimit : Nat := 64

/-- The greatest depth of a hold (07 R114, R115). -/
abbrev depthLimit : Nat := 8

/-- Consecutive counted vetoes of own frames at which a station withdraws (03 R64). -/
abbrev ownVetoLimit : Nat := 16

/-- Consecutive counted vetoes given at which a station withdraws (03 R65). -/
abbrev givenVetoLimit : Nat := 8

/-- The least period of edges on TICK, in REFCLK cycles (08 R136, Table 10-5). -/
abbrev tickPeriodMin : Nat := 64

/-- The recovery time between host accesses, in REFCLK cycles (11 R184, Table 10-5). -/
abbrev recoveryTime : Nat := 4

/-- Free value: the n-th byte that a read returns which breaks the recovery time. "A read so ignored
returns no defined byte" (11 R184); log 15. -/
opaque undefinedByte : Nat → Byte

end Sys2Proof.Config
end

