-- ==== Sys2Proof/Machine/State.lean ====
section
/-! DEFINITION. The state of one ZS416, block by block as Table 0-1 lists the blocks, the hand-overs that
stand between the blocks, and the reasons a step can stop. Plain data throughout. -/
namespace Sys2Proof.Machine

/-! ### The lock table (01) -/

/-- The mode of a claim (00, section 4). -/
inductive Mode where
  | x
  | s
  deriving DecidableEq, Repr

/-- A claimant s.o: a station and one of its owners. -/
structure Claimant where
  station : Station
  owner : Owner
  deriving DecidableEq, Repr

/-- A waiter record: a claimant and the mode it requested (01 R3). -/
structure Waiter where
  claimant : Claimant
  mode : Mode
  deriving DecidableEq, Repr

/-- The state of a lock entry (01 R1). -/
inductive EntryState where
  | free
  | excl
  | shared
  | unknown
  deriving DecidableEq, Repr

/-- A lock entry (01 R1 to R3). The holder set is held as the list that R2 lists it in, ascending by station
and then by owner; the waiters stand oldest first. -/
structure LockEntry where
  state : EntryState
  holders : List Claimant
  waiters : List Waiter
  deriving DecidableEq, Repr

/-! ### Membership and the fabric record (02) -/

/-- Why a join is refused (02 R35). -/
inductive RefusalReason where
  | protocol
  | lockSpace
  | period
  | silenceLimit
  deriving DecidableEq, Repr

/-- The state of a member record with its extra parts (02 R30): a JOINING record holds a head-sent flag and a
cursor, a REFUSE_DUE record a reason. -/
inductive RecordState where
  | absent
  | joining (headSent : Bool) (cursor : Nat)
  | refuseDue (reason : RefusalReason)
  | member
  deriving DecidableEq, Repr

/-- The name of a record's state, without its extra parts: what a change of state changes (02 R48). -/
inductive RecordTag where
  | absent
  | joining
  | refuseDue
  | member
  deriving DecidableEq, Repr

/-- A member record (02 R30, R31). -/
structure MemberRecord where
  state : RecordState
  count : Byte
  deriving DecidableEq, Repr

/-- A digest as it is carried: protocol level, lock-space field (L divided by 64), P and M (05 R90). -/
structure Digest where
  level : Byte
  space : Byte
  period : Byte
  limit : Byte
  deriving DecidableEq, Repr

/-- The fabric record (02 R33). -/
structure FabricRecord where
  digest : Digest
  founder : Station
  deriving DecidableEq, Repr

/-- The replica: all that every station of a fabric keeps identically (00, Table 0-2). The waiter pool and the
station counts are the sums that 01 R7 says they are (Replica.poolUse, Replica.stationUse; log 16). -/
structure Replica where
  locks : List LockEntry
  members : Vector MemberRecord 16
  joinList : List Station
  fabric : Option FabricRecord
  deriving DecidableEq, Repr

/-! ### Frames (05) -/

/-- The station state that a header carries (05 Table 5-3). -/
inductive SenderState where
  | joining
  | founding
  | member
  | leaving
  deriving DecidableEq, Repr

/-- The frame kinds (05 Table 5-3). -/
inductive FrameKind where
  | alive
  | join
  | found
  | leave
  | evict
  | refuse
  | snaphead
  | snapdata
  | claim
  | free
  | withdraw
  deriving DecidableEq, Repr

/-- The content of a SNAPHEAD (05 R92). A JOINING record holds the cursor that the join list carries. -/
structure SnapHead where
  joiner : Station
  digest : Digest
  founder : Station
  members : Vector MemberRecord 16
  joinList : List Station
  deriving DecidableEq, Repr

/-- A snapshot entry: a lock number and the entry whole (05 R91). -/
structure SnapEntry where
  lock : Byte
  entry : LockEntry
  deriving DecidableEq, Repr

/-- A frame's kind and payload (05 R89, R92, R93). -/
inductive FrameBody where
  | alive
  | join (digest : Digest)
  | found (digest : Digest)
  | leave
  | evict (victim : Station) (count : Byte)
  | refuse (joiner : Station) (reason : RefusalReason)
  | snaphead (head : SnapHead)
  | snapdata (joiner : Station) (start : Byte) (entries : List SnapEntry)
  | claim (owner : Owner) (lock : Byte) (mode : Mode) (wait : Bool)
  | free (owner : Owner) (lock : Byte)
  | withdraw (owner : Owner) (lock : Byte)
  deriving DecidableEq, Repr

/-- A frame: the header of 05 R86 and the body. -/
structure Frame where
  sender : Station
  senderState : SenderState
  epoch : Word16
  body : FrameBody
  deriving DecidableEq, Repr

/-! ### Timers (08 R137, Table 8-1) -/

/-- A timer. `running n` falls by one at each tick it takes. `due` is a timer that has reached 0 and whose
expiry, an event of its own, has not been taken yet (log 3). `expired` is a counter that stays EXPIRED. -/
inductive Timer where
  | stopped
  | running (n : Nat)
  | due
  | expired
  deriving DecidableEq, Repr

/-! ### Peer Line Interface (03) -/

/-- The line state (03 R50). `unobserved` is the line before an inter-frame gap has been heard. VETO is `veto` until its
slot ends and `vetoGap` from then until the gap after it has been heard (03 Table 3-1). -/
inductive LineState where
  | unobserved
  | idle
  | bidding
  | sending
  | receiving
  | veto
  | vetoGap
  deriving DecidableEq, Repr

structure Pli where
  line : LineState
  /-- The line has been recessive for at least the inter-frame gap (03 R51). -/
  gap : Bool
  origin : Station
  synced : Bool
  /-- The idle measure (03 R57). -/
  idle : Timer
  /-- What this station did in its own slot of the open window: none before the slot begins (03 R52). -/
  ownSlot : Option Bool
  /-- The station has ceased to be a participant since it asserted its slot in the open window (03 R54). -/
  forfeited : Bool
  /-- The winner this station computed at the last close (03 R53). -/
  winner : Station
  /-- Takes part in the frame on the line (03 R59). -/
  part : Bool
  /-- The own frame on the line (03 R54). -/
  sent : Option Frame
  /-- A receiver's copy that passed checks 1 and 2 of 03 R56. -/
  copy : Option Frame
  /-- The error mark and the full mark that this station asserts (03 R60). -/
  markE : Bool
  markF : Bool
  ownVeto : BitVec 4
  givenVeto : BitVec 3
  deriving DecidableEq, Repr

/-! ### Intake Unit (04) -/

structure Intake where
  queue : List Frame
  epoch : Word16
  valid : Bool
  deriving DecidableEq, Repr

/-! ### Send Scheduler (06) -/

/-- The kind of the membership item (06 Table 6-1). -/
inductive MembershipKind where
  | join
  | found
  | leave
  deriving DecidableEq, Repr

/-- The purposes of the control list (06 Table 6-1). -/
inductive Purpose where
  | alive
  | membership
  | donor
  | evict (v : Station)
  deriving DecidableEq, Repr

inductive ControlItem where
  | alive
  | membership (kind : MembershipKind)
  | donor
  | evict (v : Station) (count : Byte)
  deriving DecidableEq, Repr

/-- The kinds of lock frames (06 R100). -/
inductive LockKind where
  | claim
  | free
  | withdraw
  deriving DecidableEq, Repr

inductive LockItem where
  | claim (owner : Owner) (lock : Byte) (mode : Mode) (wait : Bool)
  | free (owner : Owner) (lock : Byte)
  | withdraw (owner : Owner) (lock : Byte)
  deriving DecidableEq, Repr

/-- The name of a list item: its purpose in the control list, its operation in the lock list (06 R105). -/
inductive ItemId where
  | control (purpose : Purpose)
  | lock (kind : LockKind) (owner : Owner) (lock : Byte)
  deriving DecidableEq, Repr

/-- The on-the-line reference (06 R96). `unlisted` is a frame of this station on the line that stands on no
list: the ALIVE of 03 R54, or a frame whose item a drop has emptied (06 R108). -/
inductive OnLine where
  | nothing
  | item (id : ItemId)
  | unlisted
  deriving DecidableEq, Repr

/-- The scheduler. The on-line mark of an item is `onLine = .item id`; its rescind mark is that and `rescinded`
(06 R97: an item that is not on the line never carries one). -/
structure Sched where
  control : List ControlItem
  locks : List LockItem
  retry : Option ItemId
  onLine : OnLine
  rescinded : Bool
  /-- The replacement held for the membership item on the line (06 R98). -/
  held : Option MembershipKind
  deriving DecidableEq, Repr

/-! ### Operations Unit (07) -/

/-- Why an ACQUIRE is WITHDRAWING (07 Table 7-1). -/
inductive WithdrawCause where
  | timer
  | cancel
  deriving DecidableEq, Repr

/-- The phase of an ACQUIRE (07 Table 7-1). QUEUED holds the remaining wait ticks, stopped for limit 0. -/
inductive AcquirePhase where
  | outbound
  | onLine
  | applyWait
  | queued (remaining : Timer)
  | withdrawing (cause : WithdrawCause)
  deriving DecidableEq, Repr

/-- The phase of a RELEASE (07 Table 7-1). -/
inductive ReleasePhase where
  | outbound
  | onLine
  | applyWait
  deriving DecidableEq, Repr

/-- The fields of an ACQUIRE (07 Table 7-1). `attached`: a CANCEL waits on this entry. -/
structure Acquire where
  owner : Owner
  lock : Byte
  mode : Mode
  wait : Bool
  limit : Word16
  phase : AcquirePhase
  attached : Bool
  deriving DecidableEq, Repr

/-- The kind of a live operation with its fields (07 Table 7-1). A CANCEL names the ACQUIRE it is attached to
by its owner and lock: at most one live ACQUIRE exists for a pair (07 R116). -/
inductive OpBody where
  | acquire (a : Acquire)
  | release (owner : Owner) (lock : Byte) (phase : ReleasePhase)
  | cancel (owner : Owner) (lock : Byte)
  | detach
  | join
  deriving DecidableEq, Repr

structure Operation where
  tag : Byte
  body : OpBody
  deriving DecidableEq, Repr

/-- A hold record (07 R114). -/
structure HoldRecord where
  lock : Byte
  owner : Owner
  mode : Mode
  depth : Nat
  releasing : Bool
  deriving DecidableEq, Repr

structure OpsUnit where
  /-- The live entries, in the order in which their requests were taken (07 R110). -/
  live : List Operation
  holds : List HoldRecord
  deriving DecidableEq, Repr

/-! ### Presence Monitor (08) -/

structure Monitor where
  ownSilence : Timer
  /-- One countdown per station; stopped where none is kept (08 R141). -/
  countdowns : Vector Timer 16
  isolation : Timer
  lone : Bool
  /-- The frame counts as last handed on (08 R143; log 22). -/
  counts : Vector Byte 16
  deriving DecidableEq, Repr

/-! ### Join Controller (09) -/

/-- The sub-states of JOINING (09 R151). -/
inductive JoiningSub where
  | sendJoin
  | awaitHead
  | loading
  deriving DecidableEq, Repr

/-- The station state (09 R151). -/
inductive StationState where
  | unconfigured
  | out
  | joining (sub : JoiningSub)
  | founding
  | member
  | leaving
  deriving DecidableEq, Repr

/-- A drop reason; REFUSED keeps the carried refusal reason (09 R151). -/
inductive DropReason where
  | evicted
  | left
  | withdrawnTx
  | withdrawnRx
  | refused (reason : RefusalReason)
  deriving DecidableEq, Repr

/-- How a rescinded item left its list at the end of its veto slot (06 R105). -/
inductive ItemEnd where
  | removed
  | accepted
  deriving DecidableEq, Repr

/-- What the scheduler tells the producer of a rescinded control item (06 R102, R105). -/
structure Telling where
  purpose : Purpose
  ending : ItemEnd
  deriving DecidableEq, Repr

structure JoinControl where
  state : StationState
  /-- The drop reason record; none is NONE. -/
  dropRecord : Option DropReason
  latch : Bool
  joinWait : Timer
  rejoin : Timer
  /-- Donor duty ACTIVE. -/
  duty : Bool
  /-- The last telling of the scheduler, of a rescinded membership or donor item (06 R105; log 43). -/
  told : Option Telling
  deriving DecidableEq, Repr

/-! ### Host Port (11) -/

/-- The request kinds (11 Table 11-3). -/
inductive RequestKind where
  | setup
  | join
  | detach
  | acquire
  | release
  | cancel
  | queryLock
  | queryMembers
  | queryStation
  | ack
  deriving DecidableEq, Repr

/-- The request buffer (11 R185). The bytes stand in the order in which they were written. -/
inductive RequestBuffer where
  | empty
  | filling (kind : RequestKind) (bytes : List Byte)
  | complete (kind : RequestKind) (bytes : List Byte)
  deriving DecidableEq, Repr

/-- The result codes (07 Table 7-7). -/
inductive ResultCode where
  | done
  | granted
  | released
  | busy
  | queueFull
  | poolFull
  | quota
  | timeout
  | cancelled
  | tooLate
  | noTarget
  | notHolder
  | depth
  | modeConflict
  | duplicate
  | holdFull
  | badLock
  | notMember
  | notConfigured
  | wrongState
  | badArg
  | refused
  | evicted
  | left
  | withdrawn
  deriving DecidableEq, Repr

/-- A reply (11 R190); its bytes are Reply.bytes. -/
structure Reply where
  tag : Byte
  kind : RequestKind
  code : ResultCode
  data : List Byte
  deriving DecidableEq, Repr

/-- The host protocol errors (11 Table 11-5). -/
inductive HostError where
  | noError
  | overrun
  | truncated
  | stray
  | badKind
  | underrun
  deriving DecidableEq, Repr

structure HostPort where
  buffer : RequestBuffer
  /-- Oldest at the head. -/
  replies : List Reply
  readPos : Nat
  /-- The attention set and mask: bit 0 STATE, 1 MEMBERS, 2 HOSTERR, 3 LONE (11 Table 11-4). -/
  attention : BitVec 4
  mask : BitVec 4
  lastError : HostError
  /-- The model's own: the byte that the last reply read returned (log 15). -/
  lastRead : Option Byte
  deriving DecidableEq, Repr

/-! ### What blocks hand to one another (01 R14, 02 R47, 04 R78, 06 R102; log 2) -/

/-- The outcomes of a CLAIM (01 Table 1-2). -/
inductive ClaimOutcome where
  | duplicate
  | granted
  | busy
  | queueFull
  | poolFull
  | quota
  | queued
  deriving DecidableEq, Repr

/-- The outcomes of a FREE (01 Table 1-2). -/
inductive FreeOutcome where
  | released
  | notHolder
  deriving DecidableEq, Repr

/-- The outcomes of a WITHDRAW (01 Table 1-2). -/
inductive WithdrawOutcome where
  | withdrawn
  | isHolder
  | notWaiting
  deriving DecidableEq, Repr

/-- To the Operations Unit (01 R14). -/
inductive OpsHandOver where
  | claim (owner : Owner) (lock : Byte) (outcome : ClaimOutcome)
  | free (owner : Owner) (lock : Byte) (outcome : FreeOutcome)
  | withdraw (owner : Owner) (lock : Byte) (outcome : WithdrawOutcome)
  | grant (owner : Owner) (lock : Byte) (mode : Mode)
  deriving DecidableEq, Repr

/-- The application of a frame that this station sent: its kind, whether it was taken, and whether this station's
record reached MEMBER by it (02 R47). -/
structure OwnApplication where
  kind : FrameKind
  taken : Bool
  reachedMember : Bool
  deriving DecidableEq, Repr

/-- To the Join Controller (02 R47). `dutyView` closes the hand-overs of each application: what became of an own frame,
the donor, and the head of the join list with its record. An own JOIN, FOUND or LEAVE, for which chapter 9 has an event,
is handed by an item of its own as well. -/
inductive JoinHandOver where
  | ownJoin
  | ownFound (created : Bool)
  | otherFound
  | ownSnaphead
  | ownSnapdata (reachedMember : Bool)
  | refused (reason : RefusalReason)
  | ownLeave
  | evictedSelf
  | dutyView (own : Option OwnApplication) (donor : Option Station) (head : Option (Station × MemberRecord))
  deriving DecidableEq, Repr

/-- To the Presence Monitor, one for each application (02 R47). -/
structure MonitorHandOver where
  sender : Station
  changes : List (Station × RecordTag)
  counts : List (Station × Byte)
  deriving DecidableEq, Repr

/-- What became of a lock frame (06 R102, R104). -/
inductive NoticeEvent where
  | onLine
  | accepted
  | vetoed (removed : Bool)
  deriving DecidableEq, Repr

/-- From the scheduler to the Operations Unit (06 R102). -/
structure Notice where
  kind : LockKind
  owner : Owner
  lock : Byte
  event : NoticeEvent
  deriving DecidableEq, Repr

structure HandOvers where
  notices : List Notice
  ops : List OpsHandOver
  join : List JoinHandOver
  monitor : List MonitorHandOver
  /-- A rescinded JOIN or FOUND was removed after a veto (06 R104, 09 R165). -/
  itemRemoved : Bool
  /-- A withdrawal handed over by the PLI (03 R66). -/
  withdrawal : Option DropReason
  /-- The cause of a drop that an application handed over (09 R173). -/
  dropCause : Option DropReason
  deriving DecidableEq, Repr

/-! ### Configuration and the whole -/

/-- What SETUP fixes besides the attention mask (10 R181). -/
structure Settings where
  period : Byte
  limit : Byte
  autoRejoin : Bool
  deriving DecidableEq, Repr

/-- The state of one ZS416. -/
structure State where
  /-- RESET is held high (10 R177). -/
  resetHeld : Bool
  straps : Straps
  settings : Option Settings
  /-- An edge on TICK has been taken since reset (08 R137). -/
  edgeTaken : Bool
  pli : Pli
  intake : Intake
  replica : Replica
  sched : Sched
  ops : OpsUnit
  monitor : Monitor
  join : JoinControl
  port : HostPort
  hand : HandOvers
  /-- The model's own: how many undefined bytes have been read (log 15). -/
  freeReads : Nat
  /-- The commands that wait, oldest first. -/
  pending : List Instr
  deriving DecidableEq, Repr

/-- Faults: none. Every event of the part has an effect that the manual gives, so no meaning raises one. -/
inductive Fault where
  deriving DecidableEq, Repr

/-- Refusals. -/
inductive Refusal where
  /-- A command without a meaning yet: raised by exec's arm alone. Safe: nothing is claimed of it. -/
  | notModelled (mnemonic : String)
  deriving DecidableEq, Repr

/-! ### Values after hardware reset (10 R178, Table 10-2) -/

/-- An UNKNOWN entry: no holders, no waiters (01 R1). -/
def unknownEntry : LockEntry := ⟨.unknown, [], []⟩

/-- An ABSENT record (02 R49). -/
def absentRecord : MemberRecord := ⟨.absent, 0⟩

/-- The lock space L of the straps: 64, 128, 192 or 256 (10 Table 10-1). -/
def lockSpace (p : Straps) : Nat := 64 * (p.lspace.toNat + 1)

/-- The replica after reset and after a drop (01 R27, R28; 02 R49). -/
def emptyReplica (p : Straps) : Replica :=
  ⟨List.replicate (lockSpace p) unknownEntry, Vector.replicate 16 absentRecord, [], none⟩

/-- 03 R67. -/
def resetPli : Pli :=
  { line := .unobserved, gap := false, origin := 15, synced := false, idle := .stopped, ownSlot := none, forfeited := false,
    winner := 0, part := false, sent := none, copy := none, markE := false, markF := false,
    ownVeto := 0, givenVeto := 0 }

/-- 06 R109. -/
def resetSched : Sched := ⟨[], [], none, .nothing, false, none⟩

/-- 08 R149. -/
def resetMonitor : Monitor :=
  ⟨.stopped, Vector.replicate 16 .stopped, .stopped, false, Vector.replicate 16 0⟩

/-- 09 R151. -/
def resetJoin : JoinControl := ⟨.unconfigured, none, false, .stopped, .stopped, false, none⟩

/-- 11 R200. -/
def resetPort : HostPort := ⟨.empty, [], 0, 0, 0, .noError, none⟩

def resetHand : HandOvers := ⟨[], [], [], [], false, none, none⟩

/-- The part at the release of RESET, with the straps sampled then (10 R178). -/
def resetState (p : Straps) : State :=
  { resetHeld := false, straps := p, settings := none, edgeTaken := false,
    pli := resetPli, intake := ⟨[], 0, false⟩, replica := emptyReplica p, sched := resetSched,
    ops := ⟨[], []⟩, monitor := resetMonitor, join := resetJoin, port := resetPort, hand := resetHand,
    freeReads := 0, pending := [] }

/-- Unconnected straps read 0 (10 R176). -/
def resetStraps : Straps := ⟨0, 0, false, 0⟩

/-- The part right after reset, its straps unconnected (log 14). -/
def State.reset : State := resetState resetStraps

end Sys2Proof.Machine
end

