-- ==== Sys2Proof/Machine/Operands.lean ====
section
/-! DEFINITION. The forms in which data reaches the part: bits on the line with their inserted bits and their
CRC (03 R69, 05 R85, R88), bit slots and marks, argument bytes of requests (11 Table 11-4), ticks and accesses
(08 R136, 11 R184). -/
namespace Sys2Proof.Machine

/-! ### Bit fields of a byte -/

/-- Bits 3 to 0. -/
def lowNibble (b : Byte) : Fin 16 := Fin.ofNat 16 b.toNat

/-- Bits 7 to 4. -/
def highNibble (b : Byte) : Fin 16 := Fin.ofNat 16 (b.toNat / 16)

/-- A byte from bits 7 to 4 and bits 3 to 0. -/
def nibbles (hi lo : Nat) : Byte := BitVec.ofNat 8 (16 * hi + lo)

/-- The high byte and the low byte of a 16-bit number, in the order they are sent (05 R85). -/
def wordBytes (w : Word16) : List Byte := [w.extractLsb' 8 8, w.extractLsb' 0 8]

/-- A 16-bit number from its high byte and its low byte. -/
def wordOf (hi lo : Byte) : Word16 := hi ++ lo

/-! ### Bits on the line -/

/-- The bit that a level is: the line is the wired-AND of all stations (03 R70), so dominant is 0. DEDUCED;
log 12. -/
def bitOfLevel : Level → Bool
  | .dominant => false
  | .recessive => true

def levelOfBit : Bool → Level
  | false => .dominant
  | true => .recessive

/-- The bits of a byte, most significant first (05 R85). -/
def bitsOfByte (b : Byte) : List Bool :=
  [b.getLsbD 7, b.getLsbD 6, b.getLsbD 5, b.getLsbD 4, b.getLsbD 3, b.getLsbD 2, b.getLsbD 1, b.getLsbD 0]

/-- The byte of eight bits, most significant first. -/
def byteOfBits (b7 b6 b5 b4 b3 b2 b1 b0 : Bool) : Byte :=
  BitVec.ofNat 8 (128 * b7.toNat + 64 * b6.toNat + 32 * b5.toNat + 16 * b4.toNat
    + 8 * b3.toNat + 4 * b2.toNat + 2 * b1.toNat + b0.toNat)

/-- Bits assembled into bytes: none where they do not fill the last byte. -/
def bytesOfBits : List Bool → Option (List Byte)
  | [] => some []
  | b7 :: b6 :: b5 :: b4 :: b3 :: b2 :: b1 :: b0 :: rest =>
    (bytesOfBits rest).map (byteOfBits b7 b6 b5 b4 b3 b2 b1 b0 :: ·)
  | _ => none

/-- The bits that follow a run of `run` bits equal to `prev`, with a bit of the opposite level inserted after
every run of 5; an inserted bit counts as the first bit of the next run (05 R85). -/
def insertBits (prev : Bool) (run : Nat) : List Bool → List Bool
  | [] => if run = 5 then [!prev] else []
  | b :: bs =>
    if run = 5 then (!prev) :: b :: insertBits b (if b = !prev then 2 else 1) bs
    else b :: insertBits b (if b = prev then run + 1 else 1) bs

/-- The receiver's removal of inserted bits: none where a run of 6 equal bits stands, a coding error
(03 R69, 05 R87). -/
def removeBits (prev : Bool) (run : Nat) : List Bool → Option (List Bool)
  | [] => if run = 5 then none else some []
  | b :: bs =>
    if run = 5 then (if b = prev then none else removeBits b 1 bs)
    else (removeBits b (if b = prev then run + 1 else 1) bs).map (b :: ·)

/-- Of the bits that follow a run of `run` bits equal to `prev`, those that carry n data bits: the data bits, every bit
that stands where an inserted one is due, and the one that follows the last (05 R85, R87). -/
def takeLineBits (prev : Bool) (run n : Nat) : List Bool → List Bool
  | [] => []
  | b :: bs =>
    if run = 5 then b :: takeLineBits b 1 n bs
    else if n = 0 then []
    else b :: takeLineBits b (if b = prev then run + 1 else 1) (n - 1) bs

/-- The levels that a sender drives for these bytes: the dominant frame-start bit, which belongs to the first
run, then the data with its inserted bits (05 R85). -/
def levelsOfBytes (bytes : List Byte) : List Level :=
  .dominant :: (insertBits false 1 (bytes.flatMap bitsOfByte)).map levelOfBit

/-- The bytes that a receiver assembles from the levels it sampled. -/
def bytesOfLevels : List Level → Option (List Byte)
  | .dominant :: rest => (removeBits false 1 (rest.map bitOfLevel)).bind bytesOfBits
  | _ => none

/-- One bit through the CRC register, generator x^16 + x^12 + x^5 + 1 (05 R88). -/
def crcStep (reg : Word16) (bit : Bool) : Word16 :=
  if reg.getLsbD 15 != bit then (reg <<< 1) ^^^ 0x1021#16 else reg <<< 1

/-- The CRC of some bytes: the register starts at FFFFH (05 R88). -/
def crc (bytes : List Byte) : Word16 := (bytes.flatMap bitsOfByte).foldl crcStep 0xFFFF#16

/-- The sender reads back a dominant level where it drove recessive (03 R55). -/
def readbackDiffers (driven heard : List Level) : Bool :=
  (driven.zip heard).any fun p => p.1 = .recessive && p.2 = .dominant

/-! ### Slots -/

/-- Slot n of a window (03 R52). -/
def slotAsserted (slots : BitVec 16) (n : Station) : Bool := slots.getLsbD n.val

/-- The slots in rotation order: origin + 1, origin + 2, and so on modulo 16, the origin's own slot last
(03 R53). -/
def rotationOrder (origin : Station) : List Station :=
  (List.range 16).map fun k => Fin.ofNat 16 (origin.val + 1 + k)

/-- The winner of a window: the first asserted slot in rotation order (03 R53). -/
def windowWinner (origin : Station) (slots : BitVec 16) : Option Station :=
  (rotationOrder origin).find? (slotAsserted slots)

/-! ### Ticks and accesses -/

/-- An edge on TICK is taken when it is the first since reset or follows the last edge taken by the minimum
period or more; the strap selects the source (08 R136, R137). -/
def tickTaken (tsel edgeTaken : Bool) : TickSource → Bool
  | .divider => !tsel
  | .pinEdge cycles => tsel && (!edgeTaken || Config.tickPeriodMin ≤ cycles)

/-- The access keeps the recovery time (11 R184). -/
def recovered (a : HostAccess) : Bool := Config.recoveryTime ≤ a.idleCycles

/-- The access is one that the host port takes (11 R184). -/
def accessTaken (a : HostAccess) : Bool := !a.bothStrobes && recovered a

/-! ### Arguments of requests (11 Table 11-3, Table 11-4) -/

/-- Argument byte n of a request, counted from 0. -/
def arg (bytes : List Byte) (n : Nat) : Byte := bytes.getD n 0

/-- Bits 5 and 4 of the owner byte of an ACQUIRE are 0. -/
def acquireBitsClear (b : Byte) : Bool := b &&& 0x30 = 0

/-- Bits 7 to 4 are 0: the owner byte of RELEASE and CANCEL, the mask byte of ACK. -/
def highBitsClear (b : Byte) : Bool := b &&& 0xF0 = 0

/-- Bits 6 to 4 of the flags byte of SETUP are 0. -/
def flagsBitsClear (b : Byte) : Bool := b &&& 0x70 = 0

/-- P in 4 to 255 and M in 2 to 8 (10 R180). -/
def presenceInRange (p m : Byte) : Bool := 4 ≤ p.toNat && 2 ≤ m.toNat && m.toNat ≤ 8

/-- Bit 7: 1 is X, 0 is S (11 Table 11-4, 05 Table 5-4). -/
def modeBit (b : Byte) : Mode := if b.getLsbD 7 then .x else .s

/-- Bit 6, the wait flag. -/
def waitBit (b : Byte) : Bool := b.getLsbD 6

/-- The wait limit of an ACQUIRE: its low byte comes first (11 Table 11-3). -/
def waitLimitArg (bytes : List Byte) : Word16 := wordOf (arg bytes 4) (arg bytes 3)

end Sys2Proof.Machine
end

