-- ==== Sys2Proof/Machine/Flags.lean ====
section
/-! DEFINITION. What the outside reads of the part without changing it: the attention set and its effect, RPY and
ATN, the status byte, the codes of states, reasons, errors, requests and results (11, 07 Table 7-7), the
line rate (03 Table 3-6). -/
namespace Sys2Proof.Machine

/-! ### Attention (11 R194, R195) -/

/-- 11 Table 11-4: bit 0 STATE, bit 1 MEMBERS, bit 2 HOSTERR, bit 3 LONE. -/
def attState : BitVec 4 := 1

def attMembers : BitVec 4 := 2

def attHosterr : BitVec 4 := 4

def attLone : BitVec 4 := 8

/-- A reason becomes set, or stays set (11 R195). -/
def HostPort.raise (p : HostPort) (reason : BitVec 4) : HostPort := { p with attention := p.attention ||| reason }

/-- The reasons that a mask names become clear (11 R196). -/
def HostPort.acknowledge (p : HostPort) (named : BitVec 4) : HostPort :=
  { p with attention := p.attention &&& ~~~named }

/-- RPY: the reply queue holds a reply; low while RESET is held (11 R194, 10 R177). -/
def rpy (s : State) : Bool := !s.resetHeld && !s.port.replies.isEmpty

/-- ATN: the attention set and mask have a reason in common; low while RESET is held (11 R194, 10 R177). -/
def atn (s : State) : Bool := !s.resetHeld && !decide (s.port.attention &&& s.port.mask = 0)

/-! ### Codes -/

/-- 11 Table 11-7. -/
def StationState.code : StationState → Nat
  | .unconfigured => 0
  | .out => 1
  | .joining _ => 2
  | .founding => 3
  | .member => 4
  | .leaving => 5

/-- 11 Table 11-9, byte 0 bits 5-4. -/
def StationState.subCode : StationState → Nat
  | .joining .sendJoin => 1
  | .joining .awaitHead => 2
  | .joining .loading => 3
  | _ => 0

/-- A participant: JOINING, FOUNDING, MEMBER or LEAVING (03 R59). -/
def StationState.participant : StationState → Bool
  | .unconfigured => false
  | .out => false
  | _ => true

/-- The sender state of a header (04 R79, 05 Table 5-3). A station that is no participant sends nothing. -/
def StationState.sender : StationState → SenderState
  | .founding => .founding
  | .member => .member
  | .leaving => .leaving
  | _ => .joining

/-- 11 Table 11-9, byte 1: the drop reason in bits 2-0, the refusal reason in bits 5-4. -/
def dropRecordByte : Option DropReason → Byte
  | none => 0
  | some .evicted => 1
  | some .left => 2
  | some .withdrawnTx => 3
  | some .withdrawnRx => 4
  | some (.refused .protocol) => 0x05
  | some (.refused .lockSpace) => 0x15
  | some (.refused .period) => 0x25
  | some (.refused .silenceLimit) => 0x35

/-- 11 Table 11-5. -/
def HostError.code : HostError → Byte
  | .noError => 0
  | .overrun => 1
  | .truncated => 2
  | .stray => 3
  | .badKind => 4
  | .underrun => 5

/-- 11 Table 11-3. -/
def RequestKind.code : RequestKind → Byte
  | .setup => 1
  | .join => 2
  | .detach => 3
  | .acquire => 4
  | .release => 5
  | .cancel => 6
  | .queryLock => 7
  | .queryMembers => 8
  | .queryStation => 9
  | .ack => 10

/-- The kind that a kind byte names: codes 0 and 11 to 255 name none (11 Table 11-3). -/
def requestKindOf (b : Byte) : Option RequestKind :=
  match b.toNat with
  | 1 => some .setup
  | 2 => some .join
  | 3 => some .detach
  | 4 => some .acquire
  | 5 => some .release
  | 6 => some .cancel
  | 7 => some .queryLock
  | 8 => some .queryMembers
  | 9 => some .queryStation
  | 10 => some .ack
  | _ => none

/-- m, the number of argument bytes (11 Table 11-3). -/
def RequestKind.argCount : RequestKind → Nat
  | .setup => 3
  | .join => 1
  | .detach => 1
  | .acquire => 5
  | .release => 3
  | .cancel => 3
  | .queryLock => 2
  | .queryMembers => 1
  | .queryStation => 1
  | .ack => 1

/-- 07 Table 7-7. -/
def ResultCode.value : ResultCode → Byte
  | .done => 0
  | .granted => 1
  | .released => 2
  | .busy => 3
  | .queueFull => 4
  | .poolFull => 5
  | .quota => 6
  | .timeout => 7
  | .cancelled => 8
  | .tooLate => 9
  | .noTarget => 10
  | .notHolder => 11
  | .depth => 12
  | .modeConflict => 13
  | .duplicate => 14
  | .holdFull => 15
  | .badLock => 16
  | .notMember => 17
  | .notConfigured => 18
  | .wrongState => 19
  | .badArg => 20
  | .refused => 21
  | .evicted => 22
  | .left => 23
  | .withdrawn => 24

/-- The reply that the outcome of an own CLAIM gives; QUEUED gives none (07 Table 7-3). -/
def ClaimOutcome.reply : ClaimOutcome → Option ResultCode
  | .duplicate => some .duplicate
  | .granted => some .granted
  | .busy => some .busy
  | .queueFull => some .queueFull
  | .poolFull => some .poolFull
  | .quota => some .quota
  | .queued => none

/-- The reply of a live operation at a drop (07 R132, Table 7-6). -/
def dropReply (reason : DropReason) (kind : RequestKind) : ResultCode :=
  match reason with
  | .evicted => .evicted
  | .left => if kind = .detach then .done else .left
  | .withdrawnTx => .withdrawn
  | .withdrawnRx => .withdrawn
  | .refused _ => .refused

/-- The bytes of a reply (11 R190, Table 11-6). -/
def Reply.bytes (r : Reply) : List Byte :=
  BitVec.ofNat 8 (3 + r.data.length) :: r.tag :: r.kind.code :: r.code.value :: r.data

/-! ### Status (11 R193) -/

def RequestBuffer.busy : RequestBuffer → Bool
  | .complete _ _ => true
  | _ => false

def RequestBuffer.isFilling : RequestBuffer → Bool
  | .filling _ _ => true
  | _ => false

/-- The status byte (11 Table 11-7), built from the state as it stands. -/
def statusByte (s : State) : Byte :=
  BitVec.ofNat 8 (s.join.state.code + 8 * s.port.buffer.busy.toNat + 16 * (!s.port.replies.isEmpty).toNat
    + 32 * (!decide (s.port.attention &&& s.port.mask = 0)).toNat + 64 * s.monitor.lone.toNat
    + 128 * s.port.buffer.isFilling.toNat)

/-- What a read at A0 = 1 returns: the status byte, or no defined byte where the access is ignored (11 R184, R193; 10
R177). Such a read changes no state (11 R184), so the table of commands has no row for it. -/
def statusRead (access : HostAccess) (s : State) : Option Byte :=
  if s.resetHeld = false ∧ accessTaken access = true then some (statusByte s) else none

/-- The bit rate of the line in kbit/s (03 Table 3-6). -/
def bitRate (p : Straps) : Nat := 125 * 2 ^ p.rate.toNat

end Sys2Proof.Machine
end

