-- ==== Sys2Proof/Machine/FrameFormat.lean ====
section
/-! DEFINITION. Frame formats: the bytes of a header, of every payload and of a snapshot entry, and the form
checks a receiver makes on its copy (05). -/
namespace Sys2Proof.Machine

/-! ### Codes -/

/-- The kind of a body. -/
def FrameBody.kind : FrameBody → FrameKind
  | .alive => .alive
  | .join _ => .join
  | .found _ => .found
  | .leave => .leave
  | .evict _ _ => .evict
  | .refuse _ _ => .refuse
  | .snaphead _ => .snaphead
  | .snapdata _ _ _ => .snapdata
  | .claim _ _ _ _ => .claim
  | .free _ _ => .free
  | .withdraw _ _ => .withdraw

/-- 05 Table 5-3. -/
def FrameKind.code : FrameKind → Nat
  | .alive => 1
  | .join => 2
  | .found => 3
  | .leave => 4
  | .evict => 5
  | .refuse => 6
  | .snaphead => 7
  | .snapdata => 8
  | .claim => 9
  | .free => 10
  | .withdraw => 11

def SenderState.code : SenderState → Nat
  | .joining => 0
  | .founding => 1
  | .member => 2
  | .leaving => 3

def SenderState.ofCode : Nat → SenderState
  | 0 => .joining
  | 1 => .founding
  | 2 => .member
  | _ => .leaving

/-- 05 Table 5-4, REFUSE. -/
def RefusalReason.code : RefusalReason → Nat
  | .protocol => 0
  | .lockSpace => 1
  | .period => 2
  | .silenceLimit => 3

def RefusalReason.ofCode : Nat → RefusalReason
  | 0 => .protocol
  | 1 => .lockSpace
  | 2 => .period
  | _ => .silenceLimit

/-- 05 Table 5-5. -/
def EntryState.code : EntryState → Nat
  | .free => 0
  | .excl => 1
  | .shared => 2
  | .unknown => 3

/-! ### Encoding -/

/-- A digest is carried in four bytes (05 R90). -/
def digestBytes (d : Digest) : List Byte := [d.level, d.space, d.period, d.limit]

/-- A claimant as one byte: station in bits 7-4, owner in bits 3-0 (05 Table 5-5). -/
def claimantByte (c : Claimant) : Byte := nibbles c.station.val c.owner.val

/-- The mode map: from bit `weight` downward one bit for each waiter, 1 for X (05 R91). -/
def modeMap (weight : Nat) : List Mode → Nat
  | [] => 0
  | m :: ms => (if m = .x then weight else 0) + modeMap (weight / 2) ms

/-- A snapshot entry (05 R91, Table 5-5). -/
def entryBytes (lock : Byte) (e : LockEntry) : List Byte :=
  lock :: BitVec.ofNat 8 (64 * e.state.code + e.holders.length) :: BitVec.ofNat 8 e.waiters.length
    :: (e.holders.map claimantByte ++ e.waiters.map (fun w => claimantByte w.claimant)
      ++ (if e.waiters = [] then [] else wordBytes (BitVec.ofNat 16 (modeMap 32768 (e.waiters.map (·.mode))))))

/-- The cursor that a list item carries: the record's for a JOINING station, 0 for a REFUSE_DUE one
(05 R92). -/
def RecordState.carriedCursor : RecordState → Nat
  | .joining _ c => c
  | _ => 0

/-- The state byte of a member record (05 Table 5-7). -/
def RecordState.byte : RecordState → Byte
  | .absent => 0
  | .joining hs _ => if hs then 0x60 else 0x40
  | .refuseDue r => BitVec.ofNat 8 (128 + r.code)
  | .member => 0xC0

/-- The two bytes of a member record (05 Table 5-7). -/
def recordBytes (r : MemberRecord) : List Byte := [r.state.byte, r.count]

/-- The two bytes of a list item (05 Table 5-7): bit 8 of the cursor stands in bit 0 of the first. -/
def itemBytes (members : Vector MemberRecord 16) (s : Station) : List Byte :=
  [nibbles s.val (members[s].state.carriedCursor / 256), BitVec.ofNat 8 members[s].state.carriedCursor]

/-- The member records and the join list as SNAPHEAD and QUERY_MEMBERS carry them (05 Table 5-7, 11 R198). -/
def membershipBytes (members : Vector MemberRecord 16) (joinList : List Station) : List Byte :=
  members.toList.flatMap recordBytes ++ BitVec.ofNat 8 joinList.length :: joinList.flatMap (itemBytes members)

/-- The owner byte of a CLAIM (05 Table 5-4). -/
def claimByte (owner : Owner) (mode : Mode) (wait : Bool) : Byte :=
  BitVec.ofNat 8 ((if mode = .x then 128 else 0) + (if wait then 64 else 0) + owner.val)

/-- The payload (05 R89, R92, R93). -/
def payloadBytes : FrameBody → List Byte
  | .alive => []
  | .leave => []
  | .join d => digestBytes d
  | .found d => digestBytes d
  | .evict v c => [nibbles 0 v.val, c]
  | .refuse j r => [nibbles 0 j.val, BitVec.ofNat 8 r.code]
  | .snaphead h =>
    nibbles 0 h.joiner.val :: (digestBytes h.digest ++ nibbles 0 h.founder.val :: membershipBytes h.members h.joinList)
  | .snapdata j start es => nibbles 0 j.val :: start :: es.flatMap fun e => entryBytes e.lock e.entry
  | .claim o l m w => [claimByte o m w, l]
  | .free o l => [nibbles 0 o.val, l]
  | .withdraw o l => [nibbles 0 o.val, l]

/-- The header and the payload (05 R86, Table 5-2). -/
def frameBytes (f : Frame) : List Byte :=
  nibbles f.body.kind.code f.sender.val :: BitVec.ofNat 8 (64 * f.senderState.code)
    :: (wordBytes f.epoch ++ BitVec.ofNat 8 (payloadBytes f.body).length :: payloadBytes f.body)

/-- The bytes on the line: header, payload, CRC (05 R85, R88). -/
def wireBytes (f : Frame) : List Byte := frameBytes f ++ wordBytes (crc (frameBytes f))

/-- The levels that the sender drives from the frame-start bit to the last bit (05 R85). -/
def frameLevels (f : Frame) : List Level := levelsOfBytes (wireBytes f)

/-! ### The end of a frame at a receiver -/

/-- The payload length in a copy's header, read from the bits after the frame-start bit: the fifth byte (05 R86, R87).
0 where a coding error or an early end leaves no header, a copy that fails check 1 whatever its end. -/
def lengthField (bits : List Bool) : Nat :=
  match (removeBits false 1 (takeLineBits false 1 40 bits)).bind bytesOfBits with
  | some header => (header.getD 4 0).toNat
  | none => 0

/-- The levels heard, to the end that a receiver takes for the frame's: the header, the payload of the length in its
own copy or of 96 bytes where that is more, the two CRC bytes, and the inserted bit that may follow them (05 R87). -/
def heardFrame : List Level → List Level
  | [] => []
  | start :: rest =>
    let bits := rest.map bitOfLevel
    start :: (takeLineBits false 1 (8 * (7 + min Config.payloadLimit (lengthField bits))) bits).map levelOfBit

/-! ### Check 1 -/

/-- Check 1 of 03 R56 on the bytes of a copy, header to CRC: the length field agrees with the frame's end and
is at most 96, and the CRC is right (05 R87, R88). The answer is the header and payload. -/
def crcChecked (bytes : List Byte) : Option (List Byte) :=
  let n := bytes.length - 2
  let body := bytes.take n
  if 7 ≤ bytes.length ∧ (body.getD 4 0).toNat = n - 5 ∧ n - 5 ≤ Config.payloadLimit
      ∧ bytes.drop n = wordBytes (crc body) then some body
  else none

/-! ### Check 2: the form checks (05 R94, R95) -/

/-- Each element is below the next: strictly ascending bytes (05 R95). -/
def strictlyAscending : List Byte → Bool
  | a :: b :: rest => a.toNat < b.toNat && strictlyAscending (b :: rest)
  | _ => true

/-- No element stands twice. -/
def noRepeats {α : Type} [DecidableEq α] : List α → Bool
  | [] => true
  | a :: rest => !rest.contains a && noRepeats rest

def claimantOfByte (b : Byte) : Claimant := ⟨highNibble b, lowNibble b⟩

/-- The modes of w waiters, read from the most significant bit down; none where a bit beyond the w-th is 1. -/
def modesOf : Nat → Word16 → Option (List Mode)
  | 0, m => if m = 0 then some [] else none
  | w + 1, m => (modesOf w (m <<< 1)).map ((if m.getLsbD 15 then Mode.x else Mode.s) :: ·)

/-- The state code of an entry that a frame may carry, with the holder and waiter counts it allows
(05 R95). -/
def entryStateOf (code h w : Nat) : Option EntryState :=
  match code with
  | 0 => if h = 0 ∧ w = 0 then some .free else none
  | 1 => if h = 1 ∧ w ≤ Config.queueLimit then some .excl else none
  | 2 => if 1 ≤ h ∧ h ≤ Config.holderLimit ∧ w ≤ Config.queueLimit then some .shared else none
  | _ => none

/-- One snapshot entry of a SNAPDATA with what follows it, where the entry passes its checks (05 R95). -/
def decodeEntry : List Byte → Option (SnapEntry × List Byte)
  | lock :: b1 :: b2 :: rest =>
    let h := (lowNibble b1).val
    let w := b2.toNat
    let hs := rest.take h
    let ws := (rest.drop h).take w
    let more := rest.drop (h + w)
    if b1 &&& 0x30 = 0 ∧ h + w ≤ rest.length ∧ strictlyAscending hs = true ∧ noRepeats (hs ++ ws) = true then
      match entryStateOf (b1.toNat / 64) h w with
      | none => none
      | some st =>
        if w = 0 then some (⟨lock, ⟨st, hs.map claimantOfByte, []⟩⟩, more)
        else
          match more with
          | hi :: lo :: tail =>
            (modesOf w (wordOf hi lo)).map fun ms =>
              (⟨lock, ⟨st, hs.map claimantOfByte, (ws.map claimantOfByte).zipWith Waiter.mk ms⟩⟩, tail)
          | _ => none
    else none
  | _ => none

/-- Snapshot entries to the end of the payload, for the locks from `next` in order, the last below `limit`
(05 R95). The first argument bounds the number of entries. -/
def decodeEntries : Nat → Nat → Nat → List Byte → Option (List SnapEntry)
  | _, _, _, [] => some []
  | 0, _, _, _ :: _ => none
  | fuel + 1, limit, next, bytes =>
    match decodeEntry bytes with
    | none => none
    | some (e, rest) =>
      if e.lock.toNat = next ∧ next < limit then (decodeEntries fuel limit (next + 1) rest).map (e :: ·)
      else none

/-- A member state byte of a SNAPHEAD (05 R95), its cursor taken from the list item. -/
def decodeRecordState (b : Byte) (cursor : Nat) : Option RecordState :=
  let reason := b.toNat % 4
  if b &&& 0x1C ≠ 0 then none
  else
    match b.toNat / 64, b.getLsbD 5 with
    | 0, false => if reason = 0 then some .absent else none
    | 1, hs => if reason = 0 then some (.joining hs cursor) else none
    | 2, false => some (.refuseDue (.ofCode reason))
    | 3, false => if reason = 0 then some .member else none
    | _, _ => none

/-- The list items, as stations with cursors; none where bits 3-1 of a first byte are not 0. -/
def decodeItems : List Byte → Option (List (Station × Nat))
  | [] => some []
  | a :: b :: rest =>
    if a &&& 0x0E = 0 then
      (decodeItems rest).map ((highNibble a, 256 * (a.toNat % 2) + b.toNat) :: ·)
    else none
  | _ => none

/-- The cursor an item of the list carries for station s; 0 where it is not listed. -/
def cursorIn (items : List (Station × Nat)) (s : Station) : Nat :=
  match items.find? (·.1 = s) with
  | some i => i.2
  | none => 0

/-- The record's station stands on a join list (02 R32). -/
def RecordState.listed : RecordState → Bool
  | .joining _ _ => true
  | .refuseDue _ => true
  | _ => false

/-- Record k of a SNAPHEAD payload. -/
def decodeRecord (payload : List Byte) (items : List (Station × Nat)) (k : Station) : Option MemberRecord :=
  (decodeRecordState (payload.getD (6 + 2 * k.val) 0) (cursorIn items k)).map
    (⟨·, payload.getD (7 + 2 * k.val) 0⟩)

/-- The form checks of a SNAPHEAD (05 R92, R95). -/
def decodeSnaphead (payload : List Byte) : Option SnapHead :=
  let n := (payload.getD 38 0).toNat
  let space := payload.getD 2 0
  match decodeItems (payload.drop 39) with
  | none => none
  | some items =>
    let records := (List.finRange 16).map (decodeRecord payload items)
    let members := Vector.ofFn fun k : Station => (decodeRecord payload items k).getD absentRecord
    let listed := items.map (·.1)
    if n ≤ Config.joinListLimit ∧ payload.length = 39 + 2 * n
        ∧ highBitsClear (payload.getD 0 0) = true ∧ highBitsClear (payload.getD 5 0) = true
        ∧ 1 ≤ space.toNat ∧ space.toNat ≤ 4
        ∧ records.all Option.isSome = true
        ∧ noRepeats listed = true
        ∧ ((List.finRange 16).all fun k => members[k].state.listed == listed.contains k) = true
        ∧ (items.all fun i => i.2 ≤ 64 * space.toNat
            && (i.2 = 0 || members[i.1].state = .joining false i.2 || members[i.1].state = .joining true i.2)) = true
    then some
      { joiner := lowNibble (payload.getD 0 0)
        digest := ⟨payload.getD 1 0, space, payload.getD 3 0, payload.getD 4 0⟩
        founder := lowNibble (payload.getD 5 0)
        members := members
        joinList := listed }
    else none

/-- The body of a copy whose kind code and payload pass the form checks; `limit` is L as check 6 takes it
(05 R94, R95). -/
def decodeBody (limit : Nat) (code : Nat) (payload : List Byte) : Option FrameBody :=
  match code, payload with
  | 1, [] => some .alive
  | 2, [a, b, c, d] => some (.join ⟨a, b, c, d⟩)
  | 3, [a, b, c, d] => some (.found ⟨a, b, c, d⟩)
  | 4, [] => some .leave
  | 5, [v, c] => if highBitsClear v then some (.evict (lowNibble v) c) else none
  | 6, [j, r] => if highBitsClear j ∧ r.toNat ≤ 3 then some (.refuse (lowNibble j) (.ofCode r.toNat)) else none
  | 7, p => (decodeSnaphead p).map .snaphead
  | 8, j :: start :: rest =>
    if highBitsClear j ∧ start.toNat < limit ∧ rest ≠ [] then
      (decodeEntries rest.length limit start.toNat rest).map (.snapdata (lowNibble j) start)
    else none
  | 9, [o, l] =>
    if acquireBitsClear o ∧ l.toNat < limit then some (.claim (lowNibble o) l (modeBit o) (waitBit o)) else none
  | 10, [o, l] => if highBitsClear o ∧ l.toNat < limit then some (.free (lowNibble o) l) else none
  | 11, [o, l] => if highBitsClear o ∧ l.toNat < limit then some (.withdraw (lowNibble o) l) else none
  | _, _ => none

/-- Check 2 of 03 R56: the frame of a copy (header and payload) that passes every form check. -/
def decodeFrame (limit : Nat) (bytes : List Byte) : Option Frame :=
  match bytes with
  | k :: st :: hi :: lo :: _len :: payload =>
    if st &&& 0x3F = 0 then
      (decodeBody limit (highNibble k).val payload).map
        (⟨lowNibble k, .ofCode (st.toNat / 64), wordOf hi lo, ·⟩)
    else none
  | _ => none

/-- Checks 1 and 2 of 03 R56 on the levels heard to the frame's end: the copy, where both pass. -/
def receiveFrame (limit : Nat) (levels : List Level) : Option Frame :=
  ((bytesOfLevels (heardFrame levels)).bind crcChecked).bind (decodeFrame limit)

end Sys2Proof.Machine
end

