-- ==== Sys2Proof/Machine/LockTable.lean ====
section
/-! DEFINITION. The lock table: entries, the waiter pool and its counts, the grant rule, the regrant, lock
frames and the removal of a station (01). All of it reads and writes a replica alone. -/
namespace Sys2Proof.Machine

/-! ### Entries -/

/-- The entry of a lock; beyond the table nothing is known. -/
def Replica.entry (r : Replica) (lock : Byte) : LockEntry := r.locks.getD lock.toNat unknownEntry

def Replica.setEntry (r : Replica) (lock : Byte) (e : LockEntry) : Replica :=
  { r with locks := r.locks.set lock.toNat e }

/-- Every entry UNKNOWN (01 R4, R26, R28). -/
def Replica.forgetLocks (r : Replica) : Replica := { r with locks := r.locks.map fun _ => unknownEntry }

/-- Every entry from lock k upward UNKNOWN (01 R18). -/
def Replica.forgetFrom (r : Replica) (k : Nat) : Replica :=
  { r with locks := r.locks.take k ++ (r.locks.drop k).map fun _ => unknownEntry }

/-- Ascending order of station number and then of owner number (01 R2). -/
def Claimant.before (a b : Claimant) : Bool :=
  decide (a.station < b.station) || (decide (a.station = b.station) && decide (a.owner < b.owner))

/-- A claimant joins the holder set (01 R2). -/
def insertHolder (c : Claimant) : List Claimant → List Claimant
  | [] => [c]
  | h :: hs => if c = h then h :: hs else if c.before h then c :: h :: hs else h :: insertHolder c hs

/-- c stands in the entry, as a holder or as a waiter in either mode (01 R15). -/
def LockEntry.names (e : LockEntry) (c : Claimant) : Bool :=
  e.holders.contains c || e.waiters.any fun w => w.claimant = c

/-! ### The pool and the quota (01 R5 to R7) -/

/-- Pool records in use: the sum of the queue lengths (01 R5, R7; log 16). -/
def Replica.poolUse (r : Replica) : Nat := (r.locks.map fun e => e.waiters.length).sum

/-- Records in use for one station (01 R6, R7; log 16). -/
def Replica.stationUse (r : Replica) (s : Station) : Nat :=
  (r.locks.map fun e => (e.waiters.filter fun w => w.claimant.station = s).length).sum

/-! ### The grant rule (01 R8 to R12) -/

/-- The entry permits the mode: the second test, and the first without its empty queue (01 R9). -/
def permits (st : EntryState) (holders : List Claimant) : Mode → Bool
  | .x => st = .free
  | .s => st = .free || (st = .shared && holders.length < Config.holderLimit)

/-- A new claim is grantable (01 R8). -/
def LockEntry.grantable (e : LockEntry) (m : Mode) : Bool :=
  e.waiters.isEmpty && permits e.state e.holders m

/-- EXCL for mode X, SHARED for mode S (01 R12). -/
def Mode.entryState : Mode → EntryState
  | .x => .excl
  | .s => .shared

/-- A grant, as the direct outcome of a CLAIM (01 R12, R16). -/
def LockEntry.grant (e : LockEntry) (c : Claimant) (m : Mode) : LockEntry :=
  { e with state := m.entryState, holders := insertHolder c e.holders }

/-- The regrant of 01 R10 on an entry of this state, these holders and this queue: the entry it leaves, and the
waiters it grants in queue order. -/
def regrantFrom (st : EntryState) (holders : List Claimant) : List Waiter → LockEntry × List Waiter
  | [] => (⟨st, holders, []⟩, [])
  | w :: ws =>
    if permits st holders w.mode then
      match w.mode with
      | .x => (⟨.excl, insertHolder w.claimant holders, ws⟩, [w])
      | .s =>
        let rest := regrantFrom .shared (insertHolder w.claimant holders) ws
        (rest.1, w :: rest.2)
    else (⟨st, holders, w :: ws⟩, [])

/-- The regrant at one lock (01 R10). -/
def LockEntry.regrant (e : LockEntry) : LockEntry × List Waiter := regrantFrom e.state e.holders e.waiters

/-- Holders leave; the state becomes FREE when none remains (01 R1, R19, R22). -/
def LockEntry.dropHolders (e : LockEntry) (gone : Claimant → Bool) : LockEntry :=
  let hs := e.holders.filter fun h => !gone h
  { e with state := if hs.isEmpty then .free else e.state, holders := hs }

/-- A grant by regrant: the lock and the waiter granted (01 R12, R14). -/
structure Grant where
  lock : Byte
  waiter : Waiter
  deriving DecidableEq, Repr

/-! ### Lock frames (01 R13 to R20) -/

/-- A loading joiner's cursor is set to k where it is greater (01 R18). -/
def RecordState.rewound (k : Nat) : RecordState → RecordState
  | .joining true c => .joining true (if k < c then k else c)
  | st => st

/-- A record whose cursor stands above k with head-sent set (01 R18). -/
def RecordState.loadedPast (k : Nat) : RecordState → Bool
  | .joining true c => k < c
  | _ => false

/-- The rewind at the pool test of a CLAIM at lock k: in every replica the cursors of the loading joiners, and
at the loading joiner itself (station `self`) its own entries from k upward (01 R18). -/
def Replica.rewind (self : Station) (k : Nat) (r : Replica) : Replica :=
  let r' : Replica :=
    { r with members := Vector.ofFn fun i : Station => { r.members[i] with state := r.members[i].state.rewound k } }
  if r.members[self].state.loadedPast k then r'.forgetFrom k else r'

/-- The three limits of 01 R17 in their order, after the QUEUE_FULL test has passed. -/
def Replica.poolTest (r : Replica) (c : Claimant) (lock : Byte) (m : Mode) : Replica × ClaimOutcome :=
  let e := r.entry lock
  if Config.poolSize ≤ r.poolUse then (r, .poolFull)
  else if Config.quota ≤ r.stationUse c.station then (r, .quota)
  else (r.setEntry lock { e with waiters := e.waiters ++ [⟨c, m⟩] }, .queued)

/-- The application of CLAIM(c, lock, mode, wait) at station `self` (01 R15 to R18): the replica it leaves, and
its outcome where it has one. An UNKNOWN entry is skipped (01 R4). -/
def Replica.claim (self : Station) (r : Replica) (c : Claimant) (lock : Byte) (m : Mode) (wait : Bool) :
    Replica × Option ClaimOutcome :=
  let e := r.entry lock
  if e.state = .unknown ∨ r.members[c.station].state ≠ .member then (r, none)
  else if e.names c then (r, some .duplicate)
  else if e.grantable m then (r.setEntry lock (e.grant c m), some .granted)
  else if !wait then (r, some .busy)
  else if Config.queueLimit ≤ e.waiters.length then (r, some .queueFull)
  else
    let r' := r.rewind self lock.toNat
    if (r'.entry lock).state = .unknown then (r', none)
    else
      let q := r'.poolTest c lock m
      (q.1, some q.2)

/-- The application of FREE(c, lock) (01 R19): replica, outcome, grants. -/
def Replica.free (r : Replica) (c : Claimant) (lock : Byte) : Replica × Option FreeOutcome × List Grant :=
  let e := r.entry lock
  if e.state = .unknown then (r, none, [])
  else if e.holders.contains c then
    let g := (e.dropHolders fun h => h = c).regrant
    (r.setEntry lock g.1, some .released, g.2.map (Grant.mk lock))
  else (r, some .notHolder, [])

/-- The application of WITHDRAW(c, lock) (01 R20): replica, outcome, grants. -/
def Replica.withdraw (r : Replica) (c : Claimant) (lock : Byte) : Replica × Option WithdrawOutcome × List Grant :=
  let e := r.entry lock
  if e.state = .unknown then (r, none, [])
  else if e.waiters.any fun w => w.claimant = c then
    let g := ({ e with waiters := e.waiters.filter fun w => !decide (w.claimant = c) } : LockEntry).regrant
    (r.setEntry lock g.1, some .withdrawn, g.2.map (Grant.mk lock))
  else if e.holders.contains c then (r, some .isHolder, [])
  else (r, some .notWaiting, [])

/-! ### Removal of a station (01 R21 to R24) -/

/-- The removal of station s at one lock (01 R22); an UNKNOWN entry is skipped (01 R24). -/
def LockEntry.removeStation (e : LockEntry) (s : Station) : LockEntry × List Waiter :=
  if e.state = .unknown then (e, [])
  else
    ({ e with waiters := e.waiters.filter fun w => !decide (w.claimant.station = s) }.dropHolders
      fun h => h.station = s).regrant

/-- The removal at the locks from n upward, in ascending order (01 R21). -/
def removeStationFrom (s : Station) (n : Nat) : List LockEntry → List LockEntry × List Grant
  | [] => ([], [])
  | e :: es =>
    let here := e.removeStation s
    let rest := removeStationFrom s (n + 1) es
    (here.1 :: rest.1, here.2.map (Grant.mk (BitVec.ofNat 8 n)) ++ rest.2)

/-- The removal of station s: every lock in ascending order, with the grants in the order in which they arise
(01 R21, R22). -/
def Replica.removeStation (r : Replica) (s : Station) : Replica × List Grant :=
  let q := removeStationFrom s 0 r.locks
  ({ r with locks := q.1 }, q.2)

/-- Snapshot entries are installed in lock order (01 R26). -/
def Replica.installEntries (r : Replica) (es : List SnapEntry) : Replica :=
  es.foldl (fun r e => r.setEntry e.lock e.entry) r

end Sys2Proof.Machine
end

