-- ==== Sys2Proof/Machine/Membership.lean ====
section
/-! DEFINITION. The member table, the join list, the fabric record and the donor, and what membership and
donor frames do to them (02). All of it reads and writes a replica alone. -/
namespace Sys2Proof.Machine

def RecordState.tag : RecordState → RecordTag
  | .absent => .absent
  | .joining _ _ => .joining
  | .refuseDue _ => .refuseDue
  | .member => .member

/-- The record of station s (02 R30). -/
def Replica.record (r : Replica) (s : Station) : MemberRecord := r.members[s]

def Replica.setRecord (r : Replica) (s : Station) (m : MemberRecord) : Replica :=
  { r with members := r.members.set s.val m }

/-- The record of s takes a state and keeps its count. -/
def Replica.setState (r : Replica) (s : Station) (st : RecordState) : Replica :=
  r.setRecord s { r.record s with state := st }

/-- The counting step for a frame from s (02 R31). -/
def Replica.countFrame (r : Replica) (s : Station) : Replica :=
  if (r.record s).state = .absent then r else r.setRecord s { r.record s with count := (r.record s).count + 1 }

/-- The record of s becomes ABSENT with count 0, and s leaves the join list (02 R31, R32). -/
def Replica.makeAbsent (r : Replica) (s : Station) : Replica :=
  { r.setRecord s absentRecord with joinList := r.joinList.filter fun t => !decide (t = s) }

/-- The removal of s from the lock table, and its record ABSENT after it (02 R45, R46). -/
def Replica.expel (r : Replica) (s : Station) : Replica × List Grant :=
  let q := r.removeStation s
  (q.1.makeAbsent s, q.2)

/-- The donor: the lowest station number whose record is MEMBER (02 R36). -/
def Replica.donor (r : Replica) : Option Station :=
  (List.finRange 16).find? fun s => (r.record s).state = .member

/-- The member table names a station other than `self` in a state other than ABSENT (08 R146). -/
def Replica.namesOther (r : Replica) (self : Station) : Bool :=
  (List.finRange 16).any fun s => !decide (s = self) && !decide ((r.record s).state = .absent)

/-- The refusal reason of the first field that differs, none where the digests match (02 R35). -/
def compareDigest (offered held : Digest) : Option RefusalReason :=
  if offered.level ≠ held.level then some .protocol
  else if offered.space ≠ held.space then some .lockSpace
  else if offered.period ≠ held.period then some .period
  else if offered.limit ≠ held.limit then some .silenceLimit
  else none

/-- The state of a record whose station asks to join (02 R38, R39). -/
def joinedState (offered held : Digest) : RecordState :=
  match compareDigest offered held with
  | none => .joining false 0
  | some reason => .refuseDue reason

/-- A JOIN from s whose record is ABSENT (02 R38). -/
def Replica.joinFromAbsent (r : Replica) (s : Station) (offered held : Digest) : Replica :=
  if Config.joinListLimit ≤ r.joinList.length then r
  else { r.setState s (joinedState offered held) with joinList := r.joinList ++ [s] }

/-- A JOIN, or a FOUND that acts as one, from station s at a station that holds a fabric record (02 R38 to
R40), less what it does to the lock table at s itself. -/
def Replica.joinRequest (r : Replica) (s : Station) (offered held : Digest) : Replica × List Grant :=
  match (r.record s).state with
  | .absent => (r.joinFromAbsent s offered held, [])
  | .joining _ _ => (r.setState s (joinedState offered held), [])
  | .refuseDue _ => (r.setState s (joinedState offered held), [])
  | .member =>
    let q := r.expel s
    (q.1.joinFromAbsent s offered held, q.2)

/-- At station s itself, every entry of its lock table becomes UNKNOWN with its own JOIN (02 R39, 09 R156). -/
def Replica.joinAt (self : Station) (r : Replica) (s : Station) (offered held : Digest) : Replica × List Grant :=
  let q := r.joinRequest s offered held
  (if s = self then q.1.forgetLocks else q.1, q.2)

/-- The refusal due to s, with its reason (02 R30). -/
def Replica.refusalDue (r : Replica) (s : Station) : Option RefusalReason :=
  match (r.record s).state with
  | .refuseDue reason => some reason
  | _ => none

/-- A REFUSE naming s from a MEMBER sender (02 R41). -/
def Replica.refuse (r : Replica) (s : Station) : Replica :=
  if (r.refusalDue s).isSome then r.makeAbsent s else r

/-- A SNAPHEAD naming s is taken: s heads the join list, JOINING with head-sent clear (02 R42). -/
def Replica.headTaken (r : Replica) (s : Station) : Bool :=
  decide (r.joinList.head? = some s) &&
    match (r.record s).state with
    | .joining false _ => true
    | _ => false

/-- The head-sent flag of s becomes set (02 R42). -/
def Replica.setHeadSent (r : Replica) (s : Station) : Replica :=
  match (r.record s).state with
  | .joining _ c => r.setState s (.joining true c)
  | _ => r

/-- The content of a SNAPHEAD is installed as the replica; every lock entry is UNKNOWN (02 R43, 01 R26). -/
def Replica.installHead (r : Replica) (h : SnapHead) : Replica :=
  { locks := r.forgetLocks.locks, members := h.members, joinList := h.joinList,
    fabric := some ⟨h.digest, h.founder⟩ }

/-- The content of a SNAPHEAD from `sender` agrees with itself for the joiner it names (02 R43). -/
def SnapHead.agrees (h : SnapHead) (sender : Station) : Bool :=
  decide (h.members[sender].state = .member) && decide (h.joinList.head? = some h.joiner) &&
    match h.members[h.joiner].state with
    | .joining false _ => true
    | _ => false

/-- A SNAPDATA naming s from lock `start` is taken (02 R44). -/
def Replica.dataTaken (r : Replica) (s : Station) (start : Nat) : Bool :=
  decide (r.joinList.head? = some s) && decide ((r.record s).state = .joining true start)

/-- The L of the fabric record; 256 where none is held (05 R94). -/
def Replica.lockLimit (r : Replica) : Nat :=
  match r.fabric with
  | some f => 64 * f.digest.space.toNat
  | none => 256

/-- The cursor of s advances to `cursor`, and s becomes MEMBER when it reaches L (02 R44). -/
def Replica.advance (r : Replica) (s : Station) (cursor : Nat) : Replica :=
  if cursor = r.lockLimit then
    { r.setState s .member with joinList := r.joinList.filter fun t => !decide (t = s) }
  else r.setState s (.joining true cursor)

/-- EVICT(v, count) from `sender` is taken (02 R45). -/
def Replica.evictTaken (r : Replica) (sender v : Station) (count : Byte) : Bool :=
  !decide (v = sender) && !decide ((r.record v).state = .absent) && decide ((r.record v).count = count)

/-- The replica that the founder creates (02 R34, 01 R25). -/
def foundedReplica (self : Station) (digest : Digest) (locks : Nat) : Replica :=
  { locks := List.replicate locks ⟨.free, [], []⟩,
    members := Vector.ofFn fun i : Station => if i = self then ⟨.member, 0⟩ else absentRecord,
    joinList := [],
    fabric := some ⟨digest, self⟩ }

/-- The records whose state changes from one replica to another, with their new state (02 R47, R48). -/
def stateChanges (before after : Replica) : List (Station × RecordTag) :=
  (List.finRange 16).filterMap fun s =>
    if (before.record s).state.tag = (after.record s).state.tag then none
    else some (s, (after.record s).state.tag)

/-- The records whose frame count changes, with their new count (02 R47). -/
def countChanges (before after : Replica) : List (Station × Byte) :=
  (List.finRange 16).filterMap fun s =>
    if (before.record s).count = (after.record s).count then none else some (s, (after.record s).count)

end Sys2Proof.Machine
end

