-- ==== Sys2Proof/Machine/Scheduler.lean ====
section
/-! DEFINITION. The Send Scheduler: its two lists, the choice of the next frame, removal and replacement (06). -/
namespace Sys2Proof.Machine

/-- 06 Table 6-1. -/
def ControlItem.purpose : ControlItem → Purpose
  | .alive => .alive
  | .membership _ => .membership
  | .donor => .donor
  | .evict v _ => .evict v

/-- The operation to which a lock-list item is tied, by its kind, owner and lock (06 R100). -/
def LockItem.id : LockItem → ItemId
  | .claim o l _ _ => .lock .claim o l
  | .free o l => .lock .free o l
  | .withdraw o l => .lock .withdraw o l

def ControlItem.id (i : ControlItem) : ItemId := .control i.purpose

/-- The item stands in its list. -/
def Sched.holds (c : Sched) (id : ItemId) : Bool :=
  c.control.any (fun i => i.id = id) || c.locks.any fun i => i.id = id

/-- A producer queues a control item: it joins the tail where the place of its purpose is empty (06 R98). -/
def Sched.queueControl (c : Sched) (i : ControlItem) : Sched :=
  if c.holds i.id then c else { c with control := c.control ++ [i] }

/-- The Operations Unit queues a lock frame (06 R100). -/
def Sched.queueLock (c : Sched) (i : LockItem) : Sched := { c with locks := c.locks ++ [i] }

/-- An item leaves its list; a retry mark that named it names none (06 R105). -/
def Sched.take (c : Sched) (id : ItemId) : Sched :=
  { c with
    control := c.control.filter fun i => !decide (i.id = id)
    locks := c.locks.filter fun i => !decide (i.id = id)
    retry := if c.retry = some id then none else c.retry }

/-- The answers to a removal request (06 R105). -/
inductive RemovalAnswer where
  | removed
  | onTheLine
  | notPresent
  deriving DecidableEq, Repr

/-- A producer asks for the removal of an item (06 R105). -/
def Sched.remove (c : Sched) (id : ItemId) : Sched × RemovalAnswer :=
  if c.onLine = .item id then ({ c with rescinded := true }, .onTheLine)
  else if c.holds id then (c.take id, .removed)
  else (c, .notPresent)

/-- The membership item takes a new kind at its place (06 R98). -/
def Sched.setMembership (c : Sched) (k : MembershipKind) : Sched :=
  { c with control := c.control.map fun i => if i.purpose = .membership then .membership k else i }

/-- A producer replaces its membership item: at once, or held while the item is on the line. Where no item
stands there is nothing to replace (06 R98, 09 R161). -/
def Sched.replaceMembership (c : Sched) (k : MembershipKind) : Sched :=
  if c.onLine = .item (.control .membership) then { c with held := some k } else c.setMembership k

/-! ### The choice of the next frame (06 R101) -/

/-- Every item is ready, except a donor item while the apply queue holds a frame. -/
def Purpose.ready (queueEmpty : Bool) : Purpose → Bool
  | .donor => queueEmpty
  | _ => true

def ItemId.ready (queueEmpty : Bool) : ItemId → Bool
  | .control p => p.ready queueEmpty
  | .lock _ _ _ => true

/-- The item that the PLI would send if a window closed now (06 R101). -/
def Sched.candidate (c : Sched) (queueEmpty : Bool) : Option ItemId :=
  let marked := c.retry.filter fun id => c.holds id && id.ready queueEmpty
  let control := (c.control.find? fun i => i.purpose.ready queueEmpty).map ControlItem.id
  marked <|> control <|> c.locks.head?.map LockItem.id

/-- The idle indication (06 R96). -/
def Sched.idle (c : Sched) (queueEmpty : Bool) : Bool :=
  (c.candidate queueEmpty).isNone && decide (c.onLine = .nothing)

/-- The control item that an id names. -/
def Sched.controlItem (c : Sched) (p : Purpose) : Option ControlItem := c.control.find? fun i => i.purpose = p

/-- The lock-list item that an id names. -/
def Sched.lockItem (c : Sched) (id : ItemId) : Option LockItem := c.locks.find? fun i => i.id = id

/-! ### One transmission (06 R102 to R104) -/

/-- The bid is won with this item (06 R102). -/
def Sched.won (c : Sched) (id : ItemId) : Sched :=
  { c with retry := none, onLine := .item id, rescinded := false, held := none }

/-- The bid is won with the ALIVE of 03 R54, which stands on no list (06 R96). No candidate is taken, so a retry mark on
a donor item that is not ready is kept (06 R101, R102). -/
def Sched.wonUnlisted (c : Sched) : Sched :=
  { c with onLine := .unlisted, rescinded := false, held := none }

/-- The frame of the item on the line was accepted: the item leaves its list and a held replacement lapses
(06 R103). -/
def Sched.accepted (c : Sched) : Sched :=
  let c' : Sched := { c with onLine := .nothing, rescinded := false, held := none }
  match c.onLine with
  | .item id => c'.take id
  | _ => c'

/-- The frame of the item on the line was vetoed: a rescinded item is removed; otherwise a held replacement
takes effect and the retry mark is set (06 R104). -/
def Sched.vetoed (c : Sched) : Sched :=
  let c' : Sched := { c with onLine := .nothing, rescinded := false, held := none }
  match c.onLine with
  | .item id =>
    if c.rescinded then c'.take id
    else
      match c.held with
      | some k => { c'.setMembership k with retry := some id }
      | none => { c' with retry := some id }
  | _ => c'

/-- A drop empties both lists, the retry mark and a held replacement. A frame of this station on the line stays
referred to until its veto slot ends (06 R108). -/
def Sched.dropped (c : Sched) : Sched :=
  { control := [], locks := [], retry := none,
    onLine := if c.onLine = .nothing then .nothing else .unlisted, rescinded := false, held := none }

end Sys2Proof.Machine
end

