-- ==== Sys2Proof/Machine/Ops.lean ====
section
/-! DEFINITION. The named operations over the state that the meanings share: updates block by block, intervals and
timers, the station state, queueing and removal, and what follows when the scheduler becomes idle. -/
namespace Sys2Proof.Machine

/-! ### Updates block by block -/

def State.withResetHeld (s : State) (x : Bool) : State := { s with resetHeld := x }

def State.withEdgeTaken (s : State) (x : Bool) : State := { s with edgeTaken := x }

def State.withSettings (s : State) (x : Option Settings) : State := { s with settings := x }

def State.withPli (s : State) (x : Pli) : State := { s with pli := x }

def State.withIntake (s : State) (x : Intake) : State := { s with intake := x }

def State.withReplica (s : State) (x : Replica) : State := { s with replica := x }

def State.withSched (s : State) (x : Sched) : State := { s with sched := x }

def State.withOps (s : State) (x : OpsUnit) : State := { s with ops := x }

def State.withMonitor (s : State) (x : Monitor) : State := { s with monitor := x }

def State.withJoin (s : State) (x : JoinControl) : State := { s with join := x }

def State.withPort (s : State) (x : HostPort) : State := { s with port := x }

def State.withHand (s : State) (x : HandOvers) : State := { s with hand := x }

def State.withFreeReads (s : State) (x : Nat) : State := { s with freeReads := x }

def State.withPending (s : State) (x : List Instr) : State := { s with pending := x }

/-! ### The station's own numbers and intervals -/

abbrev State.self (s : State) : Station := s.straps.station

/-- The lock space L of this station (10 R176). -/
abbrev State.lockCount (s : State) : Nat := lockSpace s.straps

/-- P, in ticks (08 R138). -/
def State.period (s : State) : Nat :=
  match s.settings with
  | some c => c.period.toNat
  | none => 0

/-- The silence limit, M·P ticks (08 R138). -/
def State.silenceLimit (s : State) : Nat :=
  match s.settings with
  | some c => c.limit.toNat * c.period.toNat
  | none => 0

/-- The join wait, (M+1)·P ticks (08 R138). -/
def State.joinWaitTicks (s : State) : Nat :=
  match s.settings with
  | some c => (c.limit.toNat + 1) * c.period.toNat
  | none => 0

/-- The rejoin delay, (station number + 1)·P ticks (08 R138). -/
def State.rejoinTicks (s : State) : Nat := (s.self.val + 1) * s.period

/-- The station's own digest (02 R33, 05 R90, 09 R154). -/
def State.ownDigest (s : State) : Digest :=
  match s.settings with
  | some c => ⟨Config.protocolLevel, BitVec.ofNat 8 (s.straps.lspace.toNat + 1), c.period, c.limit⟩
  | none => ⟨Config.protocolLevel, BitVec.ofNat 8 (s.straps.lspace.toNat + 1), 0, 0⟩

/-- A running timer falls by one at a tick; at 0 its expiry is due (08 R137; log 3). -/
def Timer.tick : Timer → Timer
  | .running n => if n ≤ 1 then .due else .running (n - 1)
  | t => t

def Timer.isRunning : Timer → Bool
  | .running _ => true
  | _ => false

/-! ### Attention and the station state -/

def State.attend (s : State) (reason : BitVec 4) : State := s.withPort (s.port.raise reason)

/-- The station state becomes st; a change from one of the six states to another sets STATE (09 R152). -/
def State.enter (s : State) (st : StationState) : State :=
  let s' := if s.join.state.code = st.code then s else s.attend attState
  s'.withJoin { s'.join with state := st }

/-- LONE takes a value; each change sets the LONE reason (08 R147). -/
def State.setLone (s : State) (lone : Bool) : State :=
  let s' := if s.monitor.lone = lone then s else s.attend attLone
  s'.withMonitor { s'.monitor with lone := lone }

/-! ### Queueing and removal -/

def State.queueControl (s : State) (i : ControlItem) : State := s.withSched (s.sched.queueControl i)

def State.queueLock (s : State) (i : LockItem) : State := s.withSched (s.sched.queueLock i)

/-- A removal request, its answer dropped. -/
def State.askRemoval (s : State) (id : ItemId) : State := s.withSched (s.sched.remove id).1

/-- The apply queue is empty, as the scheduler reads it (04 R71, 06 R101). -/
abbrev State.queueEmpty (s : State) : Bool := s.intake.queue.isEmpty

def State.candidate (s : State) : Option ItemId := s.sched.candidate s.queueEmpty

def State.schedIdle (s : State) : Bool := s.sched.idle s.queueEmpty

/-- While the own-silence counter is EXPIRED and the scheduler is idle, the ALIVE item is queued: at the
expiry, or at the moment the idle indication becomes true (08 R140). -/
def State.settleAlive (s : State) : State :=
  if s.monitor.ownSilence = .expired ∧ s.schedIdle = true then s.queueControl .alive else s

/-! ### Host protocol errors and replies -/

/-- A host protocol error (11 R189). -/
def State.hostError (s : State) (e : HostError) : State :=
  s.withPort { s.port.raise attHosterr with lastError := e }

/-- A reply enters the tail of the reply queue (11 R191). -/
def State.reply (s : State) (r : Reply) : State := s.withPort { s.port with replies := s.port.replies ++ [r] }

/-! ### Outcomes -/

/-- Every meaning answers a next state; while RESET is held nothing takes place (10 R177). -/
def State.whenRunning (s : State) (f : State → State) : Host.Outcome State Fault Refusal :=
  .next (if s.resetHeld then s else f s)

end Sys2Proof.Machine
end

