-- ==== Sys2Proof/Machine/Apply.lean ====
section
/-! DEFINITION. The Apply Unit: one application takes the head of the apply queue, screens it, carries out the effect
of its kind, counts it and hands on what it did (04 R72, R77, R78; 01; 02). -/
namespace Sys2Proof.Machine

/-- What the effect of a frame is, before the counting step: the replica, the epoch where the application sets it
(04 R75, R76), and what the application hands on (01 R14, 02 R47). -/
structure Applied where
  replica : Replica
  epoch : Option Word16
  outcome : Option OpsHandOver
  grants : List Grant
  join : List JoinHandOver
  deriving DecidableEq, Repr

/-- An effect on the replica that hands on nothing of its own. -/
def Applied.plain (r : Replica) : Applied := ⟨r, none, none, [], []⟩

/-! ### What was taken (02 R47) -/

def State.isOwn (s : State) (f : Frame) : Bool := f.sender = s.self

/-- The station's own FOUND creates the fabric: it holds no fabric record, its FOUND is outstanding and the latch is
clear as it stands at this application (02 R34, 04 R75, 09 R162). -/
def State.creates (s : State) (f : Frame) : Bool :=
  s.isOwn f && s.replica.fabric.isNone && !s.join.latch
    && (match s.join.state with
      | .founding => true
      | .joining .sendJoin => true
      | _ => false)

/-- At a station that holds a fabric record: the frame has the effect of its kind and is neither ignored nor skipped (01
R4, R15; 02 R37, Table 2-2). Where the chapters speak of no taking, of ALIVE and lock frames, that is log 37. -/
def Replica.takes (r : Replica) (f : Frame) : Bool :=
  let fromMember : Bool := (r.record f.sender).state = .member
  let known (l : Byte) : Bool := !decide ((r.entry l).state = .unknown)
  match f.body with
  | .alive => true
  | .leave => true
  | .join _ => !decide ((r.record f.sender).state = .absent) || decide (r.joinList.length < Config.joinListLimit)
  | .found _ => !decide ((r.record f.sender).state = .absent) || decide (r.joinList.length < Config.joinListLimit)
  | .evict v c => r.evictTaken f.sender v c
  | .refuse j _ => fromMember && (r.refusalDue j).isSome
  | .snaphead h => fromMember && r.headTaken h.joiner
  | .snapdata j start _ => fromMember && r.dataTaken j start.toNat
  | .claim _ l _ _ => fromMember && known l
  | .free _ l => known l
  | .withdraw _ l => known l

/-- An own frame was taken at its application; without a fabric record, a FOUND that creates the fabric alone (04
R77). -/
def State.takenOwn (s : State) (f : Frame) : Bool :=
  if s.replica.fabric.isSome then s.replica.takes f else decide (f.body.kind = .found) && s.creates f

/-- The part of the closing hand-over that tells of an own frame (02 R47); `after` is the replica it leaves. -/
def State.ownApplication (s : State) (f : Frame) (after : Replica) : Option OwnApplication :=
  if s.isOwn f then
    some ⟨f.body.kind, s.takenOwn f,
      !decide ((s.replica.record s.self).state = .member) && decide ((after.record s.self).state = .member)⟩
  else none

/-! ### Hand-overs -/

/-- The grant notices of this station among the grants (01 R14). -/
def grantNotices (self : Station) (gs : List Grant) : List OpsHandOver :=
  (gs.filter fun g => g.waiter.claimant.station = self).map fun g =>
    .grant g.waiter.claimant.owner g.lock g.waiter.mode

/-- The outcome is handed over at the sender alone (01 R14). -/
def ownOutcome (self sender : Station) (o : Option OpsHandOver) : List OpsHandOver :=
  if sender = self then o.toList else []

/-- The counting step and the hand-overs of one application (04 R78 steps 3 and 4). -/
def State.handOn (s : State) (f : Frame) (a : Applied) : State :=
  let after := a.replica.countFrame f.sender
  let changes := stateChanges s.replica after
  let s1 := s.withReplica after
  let s2 := match a.epoch with
    | some e => s1.withIntake { s1.intake with epoch := e, valid := true }
    | none => s1
  let s3 := s2.withHand
    { s2.hand with
      ops := s2.hand.ops ++ (ownOutcome s.self f.sender a.outcome ++ grantNotices s.self a.grants)
      join := s2.hand.join ++ (a.join ++
        [.dutyView (s.ownApplication f after) after.donor (after.joinList.head?.map fun j => (j, after.record j))])
      monitor := s2.hand.monitor ++ [⟨f.sender, changes, countChanges s.replica after⟩] }
  if changes = [] then s3 else s3.attend attMembers

/-! ### When a frame is taken -/

/-- The hand-over is the cause of a drop (04 R83). -/
def JoinHandOver.causesDrop : JoinHandOver → Bool
  | .refused _ => true
  | .ownLeave => true
  | .evictedSelf => true
  | _ => false

/-- A drop that an application caused has not been taken: no further frame is taken (04 R83). -/
def State.dropAwaited (s : State) : Bool := s.hand.dropCause.isSome || s.hand.join.any JoinHandOver.causesDrop

/-- The frame is this station's own FOUND, to be decided by the latch, and a FOUND of another station has been
applied whose hand-over may still set the latch (09 R161, R162; log 6). -/
def State.latchAwaited (s : State) (f : Frame) : Bool :=
  decide (f.sender = s.self) && decide (f.body.kind = .found) && s.replica.fabric.isNone
    && s.hand.join.contains .otherFound

def State.popFrame (s : State) : State := s.withIntake { s.intake with queue := s.intake.queue.tail }

/-- The Apply Unit takes the head of the apply queue, a frame of this kind; `effect` answers none where the frame is
discarded (04 R72, R78). The emptiness of the queue may change the scheduler's idle indication (06 R96). -/
def State.applyHead (s : State) (k : FrameKind) (effect : Frame → State → Option Applied) : State :=
  match s.intake.queue.head? with
  | some f =>
    if f.body.kind = k ∧ s.dropAwaited = false ∧ s.latchAwaited f = false then
      match effect f s.popFrame with
      | some a => (s.popFrame.handOn f a).settleAlive
      | none => s.popFrame.settleAlive
    else s
  | none => s

/-! ### The screen (04 R77, 02 R37) -/

/-- A frame of a kind that means something only with a fabric record (CLAIM, FREE, WITHDRAW, LEAVE, EVICT, ALIVE):
with a record, discarded from an ABSENT sender; without one, an own frame is handed to the Join Controller with
`own`, and any other is discarded. -/
def State.screened (s : State) (f : Frame) (own : List JoinHandOver) (effect : Replica → Applied) : Option Applied :=
  if s.replica.fabric.isSome then
    if (s.replica.record f.sender).state = .absent then none else some (effect s.replica)
  else if s.isOwn f then some { Applied.plain s.replica with join := own }
  else none

/-- A donor frame at a station that holds a fabric record: discarded from an ABSENT sender, ignored from one that is
not MEMBER (02 R37). -/
def State.screenedDonor (s : State) (f : Frame) (effect : Replica → Applied) : Option Applied :=
  match (s.replica.record f.sender).state with
  | .absent => none
  | .member => some (effect s.replica)
  | _ => some (Applied.plain s.replica)

/-! ### Lock frames -/

def State.claimEffect (s : State) (f : Frame) (o : Owner) (l : Byte) (m : Mode) (w : Bool) : Option Applied :=
  s.screened f [] fun r =>
    let q := r.claim s.self ⟨f.sender, o⟩ l m w
    ⟨q.1, none, q.2.map (OpsHandOver.claim o l), [], []⟩

def State.freeEffect (s : State) (f : Frame) (o : Owner) (l : Byte) : Option Applied :=
  s.screened f [] fun r =>
    let q := r.free ⟨f.sender, o⟩ l
    ⟨q.1, none, q.2.1.map (OpsHandOver.free o l), q.2.2, []⟩

def State.withdrawEffect (s : State) (f : Frame) (o : Owner) (l : Byte) : Option Applied :=
  s.screened f [] fun r =>
    let q := r.withdraw ⟨f.sender, o⟩ l
    ⟨q.1, none, q.2.1.map (OpsHandOver.withdraw o l), q.2.2, []⟩

/-- APPLY_CLAIM (01 R15 to R18). -/
def execApplyClaim (s : State) : Host.Outcome State Fault Refusal :=
  s.whenRunning fun s => s.applyHead .claim fun f s =>
    match f.body with
    | .claim o l m w => s.claimEffect f o l m w
    | _ => none

/-- APPLY_FREE (01 R19). -/
def execApplyFree (s : State) : Host.Outcome State Fault Refusal :=
  s.whenRunning fun s => s.applyHead .free fun f s =>
    match f.body with
    | .free o l => s.freeEffect f o l
    | _ => none

/-- APPLY_WITHDRAW (01 R20). -/
def execApplyWithdraw (s : State) : Host.Outcome State Fault Refusal :=
  s.whenRunning fun s => s.applyHead .withdraw fun f s =>
    match f.body with
    | .withdraw o l => s.withdrawEffect f o l
    | _ => none

/-! ### JOIN and FOUND -/

/-- A JOIN or FOUND at a station that holds a fabric record (02 R38 to R40). -/
def State.joinedBy (s : State) (f : Frame) (held offered : Digest) (hand : List JoinHandOver) : Applied :=
  let q := s.replica.joinAt s.self f.sender offered held
  ⟨q.1, none, none, q.2, hand⟩

def State.joinEffect (s : State) (f : Frame) (d : Digest) : Option Applied :=
  let own : List JoinHandOver := if s.isOwn f then [.ownJoin] else []
  match s.replica.fabric with
  | some fr => some (s.joinedBy f fr.digest d own)
  | none => if s.isOwn f then some { Applied.plain s.replica with join := own } else none

/-- The creation of the fabric (02 R34, 01 R25), with the epoch 1 plus the frames behind the FOUND (04 R75). -/
def State.createEffect (s : State) : Applied :=
  { Applied.plain (foundedReplica s.self s.ownDigest s.lockCount) with
    epoch := some (BitVec.ofNat 16 (1 + s.intake.queue.length))
    join := [.ownFound true] }

def State.foundEffect (s : State) (f : Frame) (d : Digest) : Option Applied :=
  let hand : List JoinHandOver := if s.isOwn f then [.ownFound false] else [.otherFound]
  match s.replica.fabric with
  | some fr => some (s.joinedBy f fr.digest d hand)
  | none => if s.creates f then some s.createEffect else some { Applied.plain s.replica with join := hand }

/-- APPLY_JOIN (02 R38, R39). -/
def execApplyJoin (s : State) : Host.Outcome State Fault Refusal :=
  s.whenRunning fun s => s.applyHead .join fun f s =>
    match f.body with
    | .join d => s.joinEffect f d
    | _ => none

/-- APPLY_FOUND (02 R40, R34). -/
def execApplyFound (s : State) : Host.Outcome State Fault Refusal :=
  s.whenRunning fun s => s.applyHead .found fun f s =>
    match f.body with
    | .found d => s.foundEffect f d
    | _ => none

/-! ### LEAVE, EVICT, ALIVE -/

def State.leaveEffect (s : State) (f : Frame) : Option Applied :=
  let own : List JoinHandOver := if s.isOwn f then [.ownLeave] else []
  s.screened f own fun r =>
    let q := r.expel f.sender
    ⟨q.1, none, none, q.2, own⟩

def State.evictEffect (s : State) (f : Frame) (v : Station) (count : Byte) : Option Applied :=
  s.screened f [] fun r =>
    if r.evictTaken f.sender v count then
      let q := r.expel v
      ⟨q.1, none, none, q.2, if v = s.self then [.evictedSelf] else []⟩
    else Applied.plain r

/-- APPLY_LEAVE (02 R46). -/
def execApplyLeave (s : State) : Host.Outcome State Fault Refusal :=
  s.whenRunning fun s => s.applyHead .leave fun f s => s.leaveEffect f

/-- APPLY_EVICT (02 R45). -/
def execApplyEvict (s : State) : Host.Outcome State Fault Refusal :=
  s.whenRunning fun s => s.applyHead .evict fun f s =>
    match f.body with
    | .evict v c => s.evictEffect f v c
    | _ => none

/-- APPLY_ALIVE (04 R77): the counting step alone. -/
def execApplyAlive (s : State) : Host.Outcome State Fault Refusal :=
  s.whenRunning fun s => s.applyHead .alive fun f s => s.screened f [] Applied.plain

/-! ### Donor frames -/

/-- A REFUSE (02 R41). Without a fabric record, one that names this station is taken when its sender state is
MEMBER. A REFUSE taken that names this station is handed to the Join Controller (02 R47). -/
def State.refuseEffect (s : State) (f : Frame) (j : Station) (reason : RefusalReason) : Option Applied :=
  if s.replica.fabric.isSome then
    s.screenedDonor f fun r =>
      { Applied.plain (r.refuse j) with
        join := if j = s.self ∧ (r.refusalDue j).isSome then [.refused reason] else [] }
  else if s.isOwn f then some (Applied.plain s.replica)
  else if j = s.self ∧ f.senderState = .member then some { Applied.plain s.replica with join := [.refused reason] }
  else none

/-- The epoch that the taking of an own SNAPHEAD sets: its header epoch, plus 1, plus the frames behind it
(04 R76). -/
def State.snapEpoch (s : State) (f : Frame) : Word16 := f.epoch + 1 + BitVec.ofNat 16 s.intake.queue.length

/-- The taking of a SNAPHEAD that names this station: its content is installed, and its own effect runs on the
installed replica (02 R42, R43). -/
def State.takeOwnHead (s : State) (f : Frame) (h : SnapHead) : Applied :=
  { Applied.plain ((s.replica.installHead h).setHeadSent h.joiner) with
    epoch := some (s.snapEpoch f)
    join := [.ownSnaphead] }

/-- A SNAPHEAD (02 R42, R43). -/
def State.snapheadEffect (s : State) (f : Frame) (h : SnapHead) : Option Applied :=
  if s.replica.fabric.isSome then
    s.screenedDonor f fun r =>
      if r.headTaken h.joiner then
        if h.joiner = s.self then s.takeOwnHead f h else Applied.plain (r.setHeadSent h.joiner)
      else Applied.plain r
  else if s.isOwn f then some (Applied.plain s.replica)
  else if h.joiner = s.self ∧ f.senderState = .member ∧ h.agrees f.sender = true then some (s.takeOwnHead f h)
  else none

/-- The taking of a SNAPDATA: at the joiner itself the entries are installed before the cursor advances (02 R44,
01 R26). -/
def State.takeData (s : State) (j : Station) (start : Byte) (es : List SnapEntry) : Applied :=
  let r := if j = s.self then s.replica.installEntries es else s.replica
  let r' := r.advance j (start.toNat + es.length)
  { Applied.plain r' with
    join := if j = s.self then [.ownSnapdata (decide ((r'.record j).state = .member))] else [] }

/-- A SNAPDATA (02 R44). -/
def State.snapdataEffect (s : State) (f : Frame) (j : Station) (start : Byte) (es : List SnapEntry) :
    Option Applied :=
  if s.replica.fabric.isSome then
    s.screenedDonor f fun r => if r.dataTaken j start.toNat then s.takeData j start es else Applied.plain r
  else if s.isOwn f then some (Applied.plain s.replica)
  else none

/-- APPLY_REFUSE (02 R41). -/
def execApplyRefuse (s : State) : Host.Outcome State Fault Refusal :=
  s.whenRunning fun s => s.applyHead .refuse fun f s =>
    match f.body with
    | .refuse j reason => s.refuseEffect f j reason
    | _ => none

/-- APPLY_SNAPHEAD (02 R42, R43). -/
def execApplySnaphead (s : State) : Host.Outcome State Fault Refusal :=
  s.whenRunning fun s => s.applyHead .snaphead fun f s =>
    match f.body with
    | .snaphead h => s.snapheadEffect f h
    | _ => none

/-- APPLY_SNAPDATA (02 R44). -/
def execApplySnapdata (s : State) : Host.Outcome State Fault Refusal :=
  s.whenRunning fun s => s.applyHead .snapdata fun f s =>
    match f.body with
    | .snapdata j start es => s.snapdataEffect f j start es
    | _ => none

end Sys2Proof.Machine
end

