-- ==== Sys2Proof/Machine/HostPort.lean ====
section
/-! DEFINITION. The accesses of the host that change state: the request buffer, the reply queue and the host protocol
errors (11 R184 to R192). -/
namespace Sys2Proof.Machine

def State.setBuffer (s : State) (b : RequestBuffer) : State := s.withPort { s.port with buffer := b }

/-- A kind byte (11 R186, Table 11-2). An unknown code while FILLING is two errors, TRUNCATED and then BAD_KIND. -/
def State.kindByte (s : State) (value : Byte) : State :=
  match s.port.buffer, requestKindOf value with
  | .empty, some k => s.setBuffer (.filling k [])
  | .empty, none => s.hostError .badKind
  | .filling _ _, some k => (s.setBuffer (.filling k [])).hostError .truncated
  | .filling _ _, none => ((s.setBuffer .empty).hostError .truncated).hostError .badKind
  | .complete _ _, _ => s.hostError .overrun

/-- The buffer with one more argument byte: COMPLETE at m of m (11 R187). -/
def storedArgument (k : RequestKind) (bytes : List Byte) (value : Byte) : RequestBuffer :=
  if bytes.length + 1 < k.argCount then .filling k (bytes ++ [value]) else .complete k (bytes ++ [value])

/-- An argument byte (11 R187, Table 11-2). -/
def State.argumentByte (s : State) (value : Byte) : State :=
  match s.port.buffer with
  | .filling k bytes => s.setBuffer (storedArgument k bytes value)
  | _ => s.hostError .stray

/-- The byte at the read position is returned, and the reply leaves the queue with its last byte (11 R192). -/
def HostPort.readByte (p : HostPort) (r : Reply) (rest : List Reply) : HostPort :=
  if p.readPos + 1 < r.bytes.length then
    { p with readPos := p.readPos + 1, lastRead := some (r.bytes.getD p.readPos 0) }
  else { p with replies := rest, readPos := 0, lastRead := some (r.bytes.getD p.readPos 0) }

/-- A reply read (11 R192). -/
def State.replyByte (s : State) : State :=
  match s.port.replies with
  | r :: rest => s.withPort (s.port.readByte r rest)
  | [] => (s.withPort { s.port with lastRead := some 0 }).hostError .underrun

/-- A reply read that breaks the recovery time changes nothing and returns no defined byte (11 R184): the next free
value (log 15). -/
def State.undefinedRead (s : State) : State :=
  (s.withPort { s.port with lastRead := some (Config.undefinedByte s.freeReads) }).withFreeReads (s.freeReads + 1)

/-- KIND_BYTE_WRITE: a write at A0 = 1 (11 R184, R186). -/
def execKindByteWrite (access : HostAccess) (value : Byte) (s : State) : Host.Outcome State Fault Refusal :=
  s.whenRunning fun s => if accessTaken access then s.kindByte value else s

/-- ARGUMENT_BYTE_WRITE: a write at A0 = 0 (11 R184, R187). -/
def execArgumentByteWrite (access : HostAccess) (value : Byte) (s : State) : Host.Outcome State Fault Refusal :=
  s.whenRunning fun s => if accessTaken access then s.argumentByte value else s

/-- REPLY_READ: a read at A0 = 0 (11 R184, R192). With both strobes low there is neither a read nor a write. -/
def execReplyRead (access : HostAccess) (s : State) : Host.Outcome State Fault Refusal :=
  s.whenRunning fun s =>
    if accessTaken access then s.replyByte else if access.bothStrobes then s else s.undefinedRead

end Sys2Proof.Machine
end

