-- ==== Sys2Proof/Machine/OpsUnit.lean ====
section
/-! DEFINITION. The Operations Unit: the operation table, the hold table, and its steps at the scheduler's notices,
at outcomes, at grant notices and at wait timer expiries (07). -/
namespace Sys2Proof.Machine

/-! ### The operation table -/

def OpBody.kind : OpBody → RequestKind
  | .acquire _ => .acquire
  | .release _ _ _ => .release
  | .cancel _ _ => .cancel
  | .detach => .detach
  | .join => .join

/-- A live ACQUIRE for the pair. -/
def Operation.acquireOf (o : Owner) (l : Byte) (op : Operation) : Option Acquire :=
  match op.body with
  | .acquire a => if a.owner = o ∧ a.lock = l then some a else none
  | _ => none

def Operation.isAcquire (o : Owner) (l : Byte) (op : Operation) : Bool := (op.acquireOf o l).isSome

def Operation.isCancel (o : Owner) (l : Byte) (op : Operation) : Bool := op.body = .cancel o l

def Operation.isAnyAcquire (op : Operation) : Bool :=
  match op.body with
  | .acquire _ => true
  | _ => false

/-- The live ACQUIRE for the pair (07 R116: at most one). -/
def OpsUnit.acquire (u : OpsUnit) (o : Owner) (l : Byte) : Option Acquire := u.live.findSome? (Operation.acquireOf o l)

/-- The live ACQUIRE for the pair changes. -/
def OpsUnit.updateAcquire (u : OpsUnit) (o : Owner) (l : Byte) (f : Acquire → Acquire) : OpsUnit :=
  { u with live := u.live.map fun op =>
      match op.acquireOf o l with
      | some a => { op with body := .acquire (f a) }
      | none => op }

/-- The live RELEASE for the pair passes from one phase to another; in another phase it stays. -/
def OpsUnit.moveRelease (u : OpsUnit) (o : Owner) (l : Byte) (a b : ReleasePhase) : OpsUnit :=
  { u with live := u.live.map fun op =>
      if op.body = .release o l a then { op with body := .release o l b } else op }

/-- A request becomes live (07 R110). -/
def OpsUnit.add (u : OpsUnit) (op : Operation) : OpsUnit := { u with live := u.live ++ [op] }

/-- The oldest live operation that fits completes: its reply enters the reply queue and its entry becomes free
(07 R112). -/
def State.complete (s : State) (fits : Operation → Bool) (code : ResultCode) : State :=
  match s.ops.live.find? fits with
  | none => s
  | some op =>
    (s.withOps { s.ops with live := s.ops.live.eraseP fits }).reply ⟨op.tag, op.body.kind, code, []⟩

/-- The ACQUIRE of the pair completes, and its attached CANCEL, if any, directly after it (07 R112). -/
def State.completeAcquire (s : State) (o : Owner) (l : Byte) (code cancelCode : ResultCode) : State :=
  match s.ops.acquire o l with
  | none => s
  | some a =>
    let s' := s.complete (Operation.isAcquire o l) code
    if a.attached then s'.complete (Operation.isCancel o l) cancelCode else s'

def State.setPhase (s : State) (o : Owner) (l : Byte) (p : AcquirePhase) : State :=
  s.withOps (s.ops.updateAcquire o l fun a => { a with phase := p })

/-- The ACQUIRE of the pair passes from phase a to phase b; in another phase it stays (07 R113). A notice that waited
while a CANCEL removed its CLAIM meets whichever ACQUIRE of the pair lives then (log 38). -/
def State.movePhase (s : State) (o : Owner) (l : Byte) (a b : AcquirePhase) : State :=
  s.withOps (s.ops.updateAcquire o l fun q => if q.phase = a then { q with phase := b } else q)

/-! ### The hold table (07 R114) -/

def HoldRecord.isFor (o : Owner) (l : Byte) (h : HoldRecord) : Bool := h.owner = o && h.lock = l

/-- The HELD record of the pair. -/
def OpsUnit.held (u : OpsUnit) (o : Owner) (l : Byte) : Option HoldRecord :=
  u.holds.find? fun h => h.isFor o l && !h.releasing

/-- A RELEASING record of the pair exists. -/
def OpsUnit.releasing (u : OpsUnit) (o : Owner) (l : Byte) : Bool := u.holds.any fun h => h.isFor o l && h.releasing

/-- A HELD record of depth 1 is created; at most one record exists for a pair. -/
def OpsUnit.addHold (u : OpsUnit) (o : Owner) (l : Byte) (m : Mode) : OpsUnit :=
  { u with holds := (u.holds.filter fun h => !h.isFor o l) ++ [⟨l, o, m, 1, false⟩] }

/-- The HELD record of the pair changes. -/
def OpsUnit.updateHeld (u : OpsUnit) (o : Owner) (l : Byte) (f : HoldRecord → HoldRecord) : OpsUnit :=
  { u with holds := u.holds.map fun h => if h.isFor o l && !h.releasing then f h else h }

/-- The RELEASING record of the pair is removed (07 R121). -/
def OpsUnit.dropReleasing (u : OpsUnit) (o : Owner) (l : Byte) : OpsUnit :=
  { u with holds := u.holds.filter fun h => !(h.isFor o l && h.releasing) }

def State.addHold (s : State) (o : Owner) (l : Byte) (m : Mode) : State := s.withOps (s.ops.addHold o l m)

/-- Live ACQUIREs and hold records together (07 R114, R116). -/
def OpsUnit.load (u : OpsUnit) : Nat := u.holds.length + (u.live.filter Operation.isAnyAcquire).length

/-! ### Notices of the scheduler (07 R113) -/

/-- A notice for the frame of this operation has arisen and not been taken. -/
def State.noticePending (s : State) (k : LockKind) (o : Owner) (l : Byte) : Bool :=
  s.hand.notices.any fun n => n.kind = k && n.owner = o && n.lock = l

def State.popNotice (s : State) : State := s.withHand { s.hand with notices := s.hand.notices.tail }

/-- The frame is on the line. A WITHDRAW's notices change no phase. -/
def State.noticeOnLine (s : State) (n : Notice) : State :=
  match n.kind with
  | .claim => s.movePhase n.owner n.lock .outbound .onLine
  | .free => s.withOps (s.ops.moveRelease n.owner n.lock .outbound .onLine)
  | .withdraw => s

/-- The frame was accepted. -/
def State.noticeAccepted (s : State) (n : Notice) : State :=
  match n.kind with
  | .claim => s.movePhase n.owner n.lock .onLine .applyWait
  | .free => s.withOps (s.ops.moveRelease n.owner n.lock .onLine .applyWait)
  | .withdraw => s

/-- A target in OUTBOUND with a CANCEL: the removal of its CLAIM is asked for. Removed, the target is cancelled
(07 R127, R128); on the line, it is treated as ON_LINE (07 R127); not present, its notices will tell (log 21). Notices
of the removed CLAIM that still wait are kept (log 38). -/
def State.cancelOutbound (s : State) (o : Owner) (l : Byte) : State :=
  let q := s.sched.remove (.lock .claim o l)
  let s' := s.withSched q.1
  match q.2 with
  | .removed => s'.completeAcquire o l .cancelled .done
  | .onTheLine => s'.setPhase o l .onLine
  | .notPresent => s'

/-- The CLAIM of an ACQUIRE was vetoed (07 R113, R128). -/
def State.claimVetoed (s : State) (o : Owner) (l : Byte) (removed : Bool) : State :=
  if removed then s.completeAcquire o l .cancelled .done
  else
    let s' := s.movePhase o l .onLine .outbound
    match s.ops.acquire o l with
    | some a => if a.attached ∧ a.phase = .onLine then s'.cancelOutbound o l else s'
    | none => s'

/-- The frame was vetoed, and its item removed where it carried a rescind mark. -/
def State.noticeVetoed (s : State) (n : Notice) (removed : Bool) : State :=
  match n.kind with
  | .claim => s.claimVetoed n.owner n.lock removed
  | .free => s.withOps (s.ops.moveRelease n.owner n.lock .onLine .outbound)
  | .withdraw => s

def execLockFrameOnLine (s : State) : Host.Outcome State Fault Refusal :=
  s.whenRunning fun s =>
    match s.hand.notices.head? with
    | some n => if n.event = .onLine then s.popNotice.noticeOnLine n else s
    | none => s

def execLockFrameAccepted (s : State) : Host.Outcome State Fault Refusal :=
  s.whenRunning fun s =>
    match s.hand.notices.head? with
    | some n => if n.event = .accepted then s.popNotice.noticeAccepted n else s
    | none => s

def execLockFrameVetoed (s : State) : Host.Outcome State Fault Refusal :=
  s.whenRunning fun s =>
    match s.hand.notices.head? with
    | some n =>
      match n.event with
      | .vetoed removed => (s.popNotice.noticeVetoed n removed).settleAlive
      | _ => s
    | none => s

/-! ### Outcomes and grant notices -/

def State.popOps (s : State) : State := s.withHand { s.hand with ops := s.hand.ops.tail }

/-- The ACQUIRE becomes WITHDRAWING and its WITHDRAW is queued (07 R123, R126, R129). -/
def State.beginWithdraw (s : State) (o : Owner) (l : Byte) (cause : WithdrawCause) : State :=
  (s.setPhase o l (.withdrawing cause)).queueLock (.withdraw o l)

/-- The remaining wait ticks at the outcome QUEUED: a limit of 0 starts no timer (07 R118, R122). -/
def waitTimer (limit : Word16) : Timer := if limit = 0 then .stopped else .running limit.toNat

/-- The outcome of this station's own CLAIM (07 R118, R129). -/
def State.claimOutcome (s : State) (o : Owner) (l : Byte) (out : ClaimOutcome) : State :=
  match s.ops.acquire o l with
  | none => s
  | some a =>
    if a.phase ≠ .applyWait then s
    else
      match out.reply with
      | none => if a.attached then s.beginWithdraw o l .cancel else s.setPhase o l (.queued (waitTimer a.limit))
      | some code =>
        (if out = .granted then s.addHold o l a.mode else s).completeAcquire o l code .tooLate

/-- The outcome of this station's own FREE (07 R121). -/
def State.freeOutcome (s : State) (o : Owner) (l : Byte) (out : FreeOutcome) : State :=
  (s.withOps (s.ops.dropReleasing o l)).complete (fun op => op.body = .release o l .applyWait)
    (match out with
      | .released => .released
      | .notHolder => .notHolder)

/-- The outcome of this station's own WITHDRAW (07 R125, Table 7-4); with no ACQUIRE in WITHDRAWING for the pair
it is discarded. -/
def State.withdrawOutcome (s : State) (o : Owner) (l : Byte) (out : WithdrawOutcome) : State :=
  match s.ops.acquire o l with
  | none => s
  | some a =>
    match a.phase with
    | .withdrawing cause =>
      if out = .isHolder then (s.addHold o l a.mode).completeAcquire o l .granted .tooLate
      else
        match cause with
        | .timer => s.completeAcquire o l .timeout .tooLate
        | .cancel => s.completeAcquire o l .cancelled .done
    | _ => s

/-- A grant notice for an owner of this station (07 R119). -/
def State.grantNotice (s : State) (o : Owner) (l : Byte) (m : Mode) : State :=
  let s' := s.addHold o l m
  match s.ops.acquire o l with
  | none => s'
  | some a =>
    match a.phase with
    | .queued _ => s'.completeAcquire o l .granted .tooLate
    | .withdrawing _ => (s'.askRemoval (.lock .withdraw o l)).completeAcquire o l .granted .tooLate
    | _ => s'

/-- CLAIM_OUTCOME: the oldest hand-over, taken after the notices of its frame (07 R113). -/
def execClaimOutcome (s : State) : Host.Outcome State Fault Refusal :=
  s.whenRunning fun s =>
    match s.hand.ops.head? with
    | some (.claim o l out) => if s.noticePending .claim o l then s else s.popOps.claimOutcome o l out
    | _ => s

/-- FREE_OUTCOME. -/
def execFreeOutcome (s : State) : Host.Outcome State Fault Refusal :=
  s.whenRunning fun s =>
    match s.hand.ops.head? with
    | some (.free o l out) => if s.noticePending .free o l then s else s.popOps.freeOutcome o l out
    | _ => s

/-- WITHDRAW_OUTCOME. -/
def execWithdrawOutcome (s : State) : Host.Outcome State Fault Refusal :=
  s.whenRunning fun s =>
    match s.hand.ops.head? with
    | some (.withdraw o l out) => if s.noticePending .withdraw o l then s else s.popOps.withdrawOutcome o l out
    | _ => s

/-- GRANT_NOTICE. The removal of a stale WITHDRAW may leave the scheduler idle. -/
def execGrantNotice (s : State) : Host.Outcome State Fault Refusal :=
  s.whenRunning fun s =>
    match s.hand.ops.head? with
    | some (.grant o l m) => (s.popOps.grantNotice o l m).settleAlive
    | _ => s

/-! ### The wait timer (07 R122, R123) -/

/-- WAIT_TIMER_EXPIRY of the ACQUIRE for the pair. -/
def execWaitTimerExpiry (o : Owner) (l : Byte) (s : State) : Host.Outcome State Fault Refusal :=
  s.whenRunning fun s =>
    match s.ops.acquire o l with
    | some a => if a.phase = .queued .due then s.beginWithdraw o l .timer else s
    | none => s

/-- The wait timers take a tick: those of ACQUIREs in QUEUED fall (07 R122). -/
def Operation.tick (op : Operation) : Operation :=
  match op.body with
  | .acquire a =>
    match a.phase with
    | .queued t => { op with body := .acquire { a with phase := .queued t.tick } }
    | _ => op
  | _ => op

/-! ### Several completions in one event: the drop (07 R132), the flush at DETACH (06 R107, 07 R133) -/

/-- The CANCEL attached to an ACQUIRE, among the operations behind it (07 R126). -/
def Operation.attachedCancel (op : Operation) (behind : List Operation) : Option Operation :=
  match op.body with
  | .acquire a => if a.attached then behind.find? (Operation.isCancel a.owner a.lock) else none
  | _ => none

/-- The live operations that complete in one event, in the order of their replies, and those that stay: oldest first,
the attached CANCEL of an ACQUIRE directly after it (07 R112). The number bounds the operations looked at. -/
def completions (fits : Operation → Bool) : Nat → List Operation → List Operation × List Operation
  | 0, live => ([], live)
  | _, [] => ([], [])
  | n + 1, op :: behind =>
    if fits op then
      match op.attachedCancel behind with
      | some c =>
        let q := completions fits n (behind.erase c)
        (op :: c :: q.1, q.2)
      | none =>
        let q := completions fits n behind
        (op :: q.1, q.2)
    else
      let q := completions fits n behind
      (q.1, op :: q.2)

/-- The replies of every live operation at a drop (07 Table 7-6). -/
def dropReplies (reason : DropReason) (live : List Operation) : List Reply :=
  (completions (fun _ => true) live.length live).1.map fun op =>
    ⟨op.tag, op.body.kind, dropReply reason op.body.kind, []⟩

/-- The lock-list item of an operation in OUTBOUND (06 R100, 07 Table 7-2). -/
def Operation.outboundItem (op : Operation) : Option ItemId :=
  match op.body with
  | .acquire a => if a.phase = .outbound then some (.lock .claim a.owner a.lock) else none
  | .release o l p => if p = .outbound then some (.lock .free o l) else none
  | _ => none

/-- The flush removes the item of this operation: it stands in the lock list and is not on the line (06 R107). -/
def Sched.flushes (c : Sched) (op : Operation) : Bool :=
  match op.outboundItem with
  | some id => c.holds id && !decide (c.onLine = .item id)
  | none => false

/-- Lock-list items leave their list; a retry mark that named one names none (06 R105). -/
def Sched.takeLocks (c : Sched) (gone : List ItemId) : Sched :=
  { c with locks := c.locks.filter fun i => !gone.contains i.id, retry := c.retry.filter fun id => !gone.contains id }

/-- The flush at DETACH: the items of OUTBOUND operations leave the lock list, and these operations reply LEFT (06 R107,
07 R133). -/
def State.flushOutbound (s : State) : State :=
  let q := completions s.sched.flushes s.ops.live.length s.ops.live
  let s1 := s.withOps { s.ops with live := q.2 }
  let s2 := s1.withSched (s1.sched.takeLocks (q.1.filterMap Operation.outboundItem))
  s2.withPort
    { s2.port with replies := s2.port.replies ++ q.1.map fun op => ⟨op.tag, op.body.kind, .left, []⟩ }

end Sys2Proof.Machine
end

