-- ==== Sys2Proof/Machine/Presence.lean ====
section
/-! DEFINITION. The Presence Monitor: own silence, silence countdowns, eviction and isolation (08). -/
namespace Sys2Proof.Machine

/-- The own-silence counter is loaded with P and runs (08 R139). -/
def State.loadOwnSilence (s : State) : State :=
  s.withMonitor { s.monitor with ownSilence := .running s.period }

/-- Some third station, neither this one nor v, has a countdown that is RUNNING (08 R143). -/
def Monitor.thirdRunning (m : Monitor) (self v : Station) : Bool :=
  (List.finRange 16).any fun w => !decide (w = self) && !decide (w = v) && m.countdowns[w].isRunning

/-- EVICT(v, c) is queued, c the frame count of v as last handed on (08 R143). -/
def State.queueEvict (s : State) (v : Station) : State := s.queueControl (.evict v s.monitor.counts[v])

/-- The eviction test for v: EVICT v is queued where a third station is still heard (08 R143). -/
def State.testEviction (s : State) (v : Station) : State :=
  if s.monitor.thirdRunning s.self v then s.queueEvict v else s

def Monitor.setCountdown (m : Monitor) (v : Station) (t : Timer) : Monitor :=
  { m with countdowns := m.countdowns.set v.val t }

/-- A countdown of a station below v has reached 0 and its expiry is still to be taken. -/
def Monitor.dueBelow (m : Monitor) (v : Nat) : Bool :=
  (List.finRange 16).any fun w => decide (w.val < v) && decide (m.countdowns[w] = .due)

/-- Some counter of the Monitor has reached 0 and its expiry, part of the Monitor's tick event, is still to be
taken (08 R142; log 4). -/
def Monitor.tickOpen (m : Monitor) : Bool :=
  decide (m.ownSilence = .due) || m.dueBelow 16 || decide (m.isolation = .due)

/-- OWN_SILENCE_EXPIRY: the counter becomes EXPIRED, and the ALIVE item is queued if the scheduler is idle
(08 R139, R140). -/
def execOwnSilenceExpiry (s : State) : Host.Outcome State Fault Refusal :=
  s.whenRunning fun s =>
    if s.monitor.ownSilence = .due then
      (s.withMonitor { s.monitor with ownSilence := .expired }).settleAlive
    else s

/-- SILENCE_COUNTDOWN_EXPIRY of station v: the countdown becomes EXPIRED and the test of 08 R143 is made. The
counters of one tick are acted on in the order of 08 R142. -/
def execSilenceCountdownExpiry (v : Station) (s : State) : Host.Outcome State Fault Refusal :=
  s.whenRunning fun s =>
    if s.monitor.countdowns[v] = .due ∧ s.monitor.ownSilence ≠ .due ∧ s.monitor.dueBelow v.val = false then
      (s.withMonitor (s.monitor.setCountdown v .expired)).testEviction v
    else s

/-- ISOLATION_EXPIRY: the counter becomes EXPIRED and LONE becomes set (08 R146, R147). -/
def execIsolationExpiry (s : State) : Host.Outcome State Fault Refusal :=
  s.whenRunning fun s =>
    if s.monitor.isolation = .due ∧ s.monitor.ownSilence ≠ .due ∧ s.monitor.dueBelow 16 = false then
      (s.withMonitor { s.monitor with isolation := .expired }).setLone true
    else s

/-! ### Hand-overs of applications (08 R141, R142, R144 to R147) -/

/-- The application took v's record to ABSENT. -/
def MonitorHandOver.ended (h : MonitorHandOver) (v : Station) : Bool := h.changes.contains (v, .absent)

/-- The application took v's record to another state than ABSENT. -/
def MonitorHandOver.changed (h : MonitorHandOver) (v : Station) : Bool :=
  h.changes.any fun c => c.1 = v && !decide (c.2 = .absent)

/-- A countdown of v is created: none is kept, v is another station, and its record left ABSENT (08 R141). -/
def State.countdownCreated (s : State) (h : MonitorHandOver) (v : Station) : Bool :=
  s.replica.fabric.isSome && !decide (v = s.self) && h.changed v && decide (s.monitor.countdowns[v] = .stopped)
    && !h.ended v

/-- The countdown of the sender is loaded (08 R142). -/
def State.countdownLoaded (s : State) (h : MonitorHandOver) (v : Station) : Bool :=
  decide (v = h.sender) && !decide (v = s.self) && !decide (s.monitor.countdowns[v] = .stopped) && !h.ended v

/-- The countdowns after a hand-over. -/
def State.countdownsAfter (s : State) (h : MonitorHandOver) : Vector Timer 16 :=
  Vector.ofFn fun v : Station =>
    if h.ended v then .stopped
    else if s.countdownCreated h v || s.countdownLoaded h v then .running s.silenceLimit
    else s.monitor.countdowns[v]

/-- The Monitor's counters and counts after a hand-over; a sender other than this station loads the isolation
counter (08 R146). -/
def State.monitorAfter (s : State) (h : MonitorHandOver) : Monitor :=
  { s.monitor with
    countdowns := s.countdownsAfter h
    isolation := if h.sender = s.self then s.monitor.isolation else .running s.silenceLimit
    counts := h.counts.foldl (fun cs c => cs.set c.1.val c.2) s.monitor.counts }

/-- LONE becomes clear at a sender other than this station, and when the member table names no other station
(08 R147). -/
def State.clearLone (s : State) (h : MonitorHandOver) : State :=
  if s.monitor.lone ∧ (h.sender ≠ s.self ∨ s.replica.namesOther s.self = false) then s.setLone false else s

/-- The EVICT items that the hand-over asks to remove: of the sender, and of stations become ABSENT
(08 R145). -/
def State.removeEvicts (s : State) (h : MonitorHandOver) : State :=
  (List.finRange 16).foldl
    (fun s v => if v = h.sender ∨ h.ended v = true then s.askRemoval (.control (.evict v)) else s) s

/-- The re-tests, in ascending station number, of the stations whose countdown is EXPIRED (08 R144). -/
def State.retest (s : State) : State :=
  (List.finRange 16).foldl
    (fun s v => if v ≠ s.self ∧ s.monitor.countdowns[v] = .expired then s.testEviction v else s) s

/-- One hand-over of an application, whole. -/
def State.presenceHandOver (s : State) (h : MonitorHandOver) : State :=
  let became := (List.finRange 16).any fun v => s.countdownCreated h v || s.countdownLoaded h v
  let s' := ((s.withMonitor (s.monitorAfter h)).clearLone h).removeEvicts h
  if became then s'.retest else s'

/-- PRESENCE_HAND_OVER: the oldest hand-over, once the Monitor's last tick event is complete (08 R142) and the
Join Controller has taken its own hand-overs of the same application (06 R98; log 4, 7). Each application hands
both blocks one closing item, so the Join Controller is ahead when fewer of its own wait. Whether the scheduler has
become idle is asked once, after all that the hand-over removes and queues (log 39). -/
def execPresenceHandOver (s : State) : Host.Outcome State Fault Refusal :=
  s.whenRunning fun s =>
    match s.hand.monitor with
    | h :: rest =>
      if s.monitor.tickOpen = false
          ∧ (s.hand.join.filter fun j => match j with | .dutyView _ _ _ => true | _ => false).length < rest.length + 1 then
        ((s.withHand { s.hand with monitor := rest }).presenceHandOver h).settleAlive
      else s
    | [] => s

end Sys2Proof.Machine
end

