-- ==== Sys2Proof/Machine/JoinController.lean ====
section
/-! DEFINITION. The Join Controller: entry into JOINING, the join wait, founding, loading, donor duty, refusal, the
causes of a drop and the drop itself (09). -/
namespace Sys2Proof.Machine

def State.popJoin (s : State) : State := s.withHand { s.hand with join := s.hand.join.tail }

/-- The membership item is queued (06 R98). -/
def State.queueMembership (s : State) (k : MembershipKind) : State := s.queueControl (.membership k)

def State.setJoinWait (s : State) (t : Timer) : State := s.withJoin { s.join with joinWait := t }

/-- The join-wait timer is loaded with (M+1)·P (09 R157). -/
def State.loadJoinWait (s : State) : State := s.setJoinWait (.running s.joinWaitTicks)

/-- A live JOIN completes with DONE (09 R162, R164). -/
def State.completeJoin (s : State) : State := s.complete (fun op => op.body = .join) .done

/-! ### Donor duty (09 R167) -/

/-- Donor duty is evaluated for a donor and a head of the join list. -/
def State.evaluateDuty (s : State) (donor head : Option Station) : State :=
  let active : Bool := decide (s.join.state = .member) && decide (donor = some s.self) && head.isSome
  let s' := s.withJoin { s.join with duty := active }
  if active then s'.queueControl .donor
  else if s'.sched.holds (.control .donor) then s'.askRemoval (.control .donor)
  else s'

/-! ### Entries into states -/

/-- The station becomes MEMBER (09 R162, R164): STATE, the join wait stopped, a live JOIN done, donor duty
evaluated. -/
def State.becomeMember (s : State) : State :=
  let s' := ((s.enter .member).setJoinWait .stopped).completeJoin
  s'.evaluateDuty s'.replica.donor s'.replica.joinList.head?

/-- The station asks to join again: SEND_JOIN with a JOIN queued (09 R158, R159, R161). -/
def State.sendJoin (s : State) : State :=
  ((s.enter (.joining .sendJoin)).setJoinWait .stopped).queueMembership .join

/-- Entry into JOINING from OUT (09 R154). -/
def State.enterJoining (s : State) : State :=
  let s' := s.enter (.joining .sendJoin)
  ((s'.withJoin { s'.join with latch := false, rejoin := .stopped }).queueMembership .join).loadOwnSilence

/-- SEND_JOIN or FOUNDING: the states with an outstanding JOIN or FOUND (09 Table 9-1). -/
def StationState.asking : StationState → Bool
  | .joining .sendJoin => true
  | .founding => true
  | _ => false

/-- JOINING or FOUNDING. -/
def StationState.seeking : StationState → Bool
  | .joining _ => true
  | .founding => true
  | _ => false

/-! ### Own frames and FOUNDs applied -/

/-- OWN_JOIN_APPLIED (09 R156). -/
def execOwnJoinApplied (s : State) : Host.Outcome State Fault Refusal :=
  s.whenRunning fun s =>
    if s.hand.join.head? = some .ownJoin then
      if s.join.state = .joining .sendJoin then (s.popJoin.enter (.joining .awaitHead)).loadJoinWait else s.popJoin
    else s

/-- OWN_FOUND_APPLIED (09 R162): the FOUND created the fabric, or acts as a JOIN. -/
def execOwnFoundApplied (s : State) : Host.Outcome State Fault Refusal :=
  s.whenRunning fun s =>
    match s.hand.join.head? with
    | some (.ownFound created) =>
      if s.join.state.asking = false then s.popJoin
      else if created then s.popJoin.becomeMember
      else (s.popJoin.enter (.joining .awaitHead)).loadJoinWait
    | _ => s

/-- The station turns to joining at the first FOUND of another (09 R161). -/
def State.turnToJoining (s : State) : State :=
  match s.join.state with
  | .founding => (s.withSched (s.sched.replaceMembership .join)).enter (.joining .sendJoin)
  | .joining .awaitHead => s.sendJoin
  | _ => s

/-- OTHER_FOUND_APPLIED (09 R161). -/
def execOtherFoundApplied (s : State) : Host.Outcome State Fault Refusal :=
  s.whenRunning fun s =>
    if s.hand.join.head? = some .otherFound then
      if s.join.state.seeking = true ∧ s.join.latch = false then
        (s.popJoin.withJoin { s.join with latch := true }).turnToJoining
      else s.popJoin
    else s

/-! ### Loading (09 R163 to R165) -/

/-- The outstanding JOIN or FOUND is gone: the sub-state is what the station's own record shows (09 R165). A
record that is neither loading nor MEMBER gives AWAIT_HEAD (log 20). -/
def State.followRecord (s : State) : State :=
  match (s.replica.record s.self).state with
  | .member => s.becomeMember
  | .joining true _ => (s.enter (.joining .loading)).loadJoinWait
  | _ => (s.enter (.joining .awaitHead)).loadJoinWait

/-- A snapshot frame is taken in SEND_JOIN or FOUNDING: the removal of the membership item is asked for
(09 R165). -/
def State.earlySnapshot (s : State) : State :=
  let q := s.sched.remove (.control .membership)
  let s' := s.withSched q.1
  match q.2 with
  | .removed => s'.followRecord
  | _ => s'

/-- OWN_SNAPHEAD_TAKEN (09 R163, R165). Idleness is asked at the end, not between the removal of the membership item and
the queueing of a donor item (log 39). -/
def execOwnSnapheadTaken (s : State) : Host.Outcome State Fault Refusal :=
  s.whenRunning fun s =>
    if s.hand.join.head? = some .ownSnaphead then
      if s.join.state = .joining .awaitHead then (s.popJoin.enter (.joining .loading)).loadJoinWait
      else if s.join.state.asking then s.popJoin.earlySnapshot.settleAlive
      else s.popJoin
    else s

/-- OWN_SNAPDATA_TAKEN (09 R164, R165). Idleness is asked at the end, as at OWN_SNAPHEAD_TAKEN (log 39). -/
def execOwnSnapdataTaken (s : State) : Host.Outcome State Fault Refusal :=
  s.whenRunning fun s =>
    match s.hand.join.head? with
    | some (.ownSnapdata reached) =>
      if s.join.state = .joining .loading then
        if reached then s.popJoin.becomeMember else s.popJoin.loadJoinWait
      else if s.join.state.asking then s.popJoin.earlySnapshot.settleAlive
      else s.popJoin
    | _ => s

/-- MEMBERSHIP_ITEM_REMOVED: the scheduler removed a rescinded JOIN or FOUND (06 R104, 09 R165). -/
def execMembershipItemRemoved (s : State) : Host.Outcome State Fault Refusal :=
  s.whenRunning fun s =>
    if s.hand.itemRemoved then
      let s' := s.withHand { s.hand with itemRemoved := false }
      if s.join.state.asking then s'.followRecord else s'
    else s

/-! ### The join wait and the rejoin timer -/

/-- The replica is discarded to the values of 01 R28 and 02 R49, with MEMBERS where a record changes state. -/
def State.discardReplica (s : State) : State :=
  let s' := s.withReplica (emptyReplica s.straps)
  if stateChanges s.replica (emptyReplica s.straps) = [] then s' else s'.attend attMembers

/-- No countdown runs, the isolation counter stops, and no count is held (08 R148, 09 R157). -/
def Monitor.forget (m : Monitor) : Monitor :=
  { m with countdowns := Vector.replicate 16 .stopped, isolation := .stopped, counts := Vector.replicate 16 0 }

/-- A joiner leaves a fabric that has no member (09 R157). EVICT items that stand in the control list are kept
(log 41). -/
def State.leaveMemberless (s : State) : State :=
  let s1 := s.discardReplica
  let s2 := s1.withIntake { s1.intake with valid := false }
  let s3 := (s2.withMonitor s2.monitor.forget).setLone false
  (s3.withJoin { s3.join with latch := false }).sendJoin

/-- The replica holds a fabric record and no MEMBER record (09 R157). -/
def Replica.memberless (r : Replica) : Bool := r.fabric.isSome && r.donor.isNone

/-- JOIN_WAIT_EXPIRY (09 R157 to R159). -/
def execJoinWaitExpiry (s : State) : Host.Outcome State Fault Refusal :=
  s.whenRunning fun s =>
    if s.join.joinWait = .due then
      match s.join.state with
      | .joining .awaitHead =>
        if s.replica.memberless then s.leaveMemberless
        else if s.join.latch then s.sendJoin
        else ((s.enter .founding).setJoinWait .stopped).queueMembership .found
      | .joining .loading => if s.replica.memberless then s.leaveMemberless else s.sendJoin
      | _ => s
    else s

/-- REJOIN_TIMER_EXPIRY (09 R174). -/
def execRejoinTimerExpiry (s : State) : Host.Outcome State Fault Refusal :=
  s.whenRunning fun s => if s.join.rejoin = .due ∧ s.join.state = .out then s.enterJoining else s

/-! ### Donor duty after an application -/

/-- DONOR_DUTY_EVALUATION (09 R167, R168). The removal of the donor item may leave the scheduler idle. -/
def execDonorDutyEvaluation (s : State) : Host.Outcome State Fault Refusal :=
  s.whenRunning fun s =>
    match s.hand.join.head? with
    | some (.dutyView _ donor head) => (s.popJoin.evaluateDuty donor (head.map Prod.fst)).settleAlive
    | _ => s

/-! ### Causes of a drop that applications hand over -/

def State.setDropCause (s : State) (r : DropReason) : State := s.withHand { s.hand with dropCause := some r }

/-- REFUSE_TAKEN (09 R166). -/
def execRefuseTaken (s : State) : Host.Outcome State Fault Refusal :=
  s.whenRunning fun s =>
    match s.hand.join.head? with
    | some (.refused reason) => if s.join.state.seeking then s.popJoin.setDropCause (.refused reason) else s.popJoin
    | _ => s

/-- OWN_LEAVE_APPLIED (09 R170). -/
def execOwnLeaveApplied (s : State) : Host.Outcome State Fault Refusal :=
  s.whenRunning fun s =>
    if s.hand.join.head? = some .ownLeave then
      if s.join.state.participant then s.popJoin.setDropCause .left else s.popJoin
    else s

/-- EVICT_NAMING_SELF (09 R171). -/
def execEvictNamingSelf (s : State) : Host.Outcome State Fault Refusal :=
  s.whenRunning fun s =>
    if s.hand.join.head? = some .evictedSelf then
      if s.join.state.participant then s.popJoin.setDropCause .evicted else s.popJoin
    else s

/-! ### The drop to OUT (09 R173) -/

/-- The reason of the drop that is due: the cause an application handed over, else the PLI's withdrawal
(log 5). -/
def HandOvers.dropDue (h : HandOvers) : Option DropReason := h.dropCause <|> h.withdrawal

/-- Every hand-over of an application has been taken (04 R83, 09 R173). -/
def HandOvers.drained (h : HandOvers) : Bool := h.ops.isEmpty && h.join.isEmpty && h.monitor.isEmpty

/-- A drop with this reason starts the rejoin timer, auto-rejoin being set (09 R174). -/
def DropReason.rejoins : DropReason → Bool
  | .evicted => true
  | .withdrawnTx => true
  | .withdrawnRx => true
  | .left => false
  | .refused _ => false

/-- The rejoin timer after a drop (09 R174). -/
def State.rejoinAfter (s : State) (r : DropReason) : Timer :=
  match s.settings with
  | some c => if c.autoRejoin && r.rejoins then .running s.rejoinTicks else .stopped
  | none => .stopped

/-- The Operations Unit's part (07 R132). -/
def State.dropOps (s : State) (r : DropReason) : State :=
  (s.withPort { s.port with replies := s.port.replies ++ dropReplies r s.ops.live }).withOps ⟨[], []⟩

/-- The Join Controller's part (09 R173). -/
def State.dropJoin (s : State) (r : DropReason) : State :=
  let s' := s.enter .out
  s'.withJoin { s'.join with dropRecord := some r, latch := false, joinWait := .stopped, rejoin := s.rejoinAfter r,
                             duty := false, told := none }

/-- The Presence Monitor's part (08 R148). -/
def State.dropMonitor (s : State) : State :=
  (s.withMonitor { s.monitor.forget with ownSilence := .stopped }).setLone false

/-- The PLI's part: both veto counts 0; it takes no part in the frame on the line (03 R63, R66). A slot
that it has asserted stays asserted (03 R52), and the bid is forfeited (03 R54). -/
def Pli.dropped (p : Pli) : Pli :=
  { p with ownVeto := 0, givenVeto := 0, part := false, forfeited := p.forfeited || decide (p.ownSlot = some true) }

/-- The drop, one event at the station (09 R173). -/
def State.drop (s : State) (r : DropReason) : State :=
  let s1 := (s.dropOps r).dropJoin r
  let s2 := (s1.withPli s1.pli.dropped).withIntake { s1.intake with queue := [], valid := false }
  let s3 := s2.discardReplica.dropMonitor
  (s3.withSched s3.sched.dropped).withHand
    { s3.hand with notices := [], itemRemoved := false, withdrawal := none, dropCause := none }

/-- DROP: the drop that is due, once the hand-overs of the applications before it are taken. -/
def execDrop (s : State) : Host.Outcome State Fault Refusal :=
  s.whenRunning fun s =>
    match s.hand.dropDue with
    | some r => if s.join.state.participant = true ∧ s.hand.drained = true then s.drop r else s
    | none => s

end Sys2Proof.Machine
end

