-- ==== Sys2Proof/Machine/Line.lean ====
section
/-! DEFINITION. The Peer Line Interface and what each end of a transmission does in the other blocks: windows, bid
wins, the frame, the veto slot, acceptance and veto (03; 04 R71 to R76, R79 to R81; 06 R102 to R104). -/
namespace Sys2Proof.Machine

/-! ### Windows -/

/-- The four conditions of 03 R52. -/
def State.wouldBid (s : State) : Bool :=
  s.join.state.participant && s.pli.synced && s.candidate.isSome
    && decide (s.intake.queue.length < Config.applyQueueLimit)

/-- The idle measure is loaded; it runs only at a configured station (03 R57, 10 R181). -/
def State.idleMeasureLoad (s : State) : Timer :=
  match s.settings with
  | some _ => .running s.joinWaitTicks
  | none => .stopped

/-- The line states that an inter-frame gap leads to IDLE, or leaves in it (03 R50, Table 3-1; log 9). -/
def LineState.awaitsGap : LineState → Bool
  | .unobserved => true
  | .vetoGap => true
  | .idle => true
  | .bidding => false
  | .sending => false
  | .receiving => false
  | .veto => false

/-- LINE_IDLE_GAP: the line has been recessive for one inter-frame gap. An unobserved line, and a line whose veto slot
has ended, becomes IDLE (03 R50, Table 3-1), and a start mark may be sent from now on (03 R51; log 9). -/
def execLineIdleGap (s : State) : Host.Outcome State Fault Refusal :=
  s.whenRunning fun s =>
    if s.pli.line.awaitsGap then s.withPli { s.pli with line := .idle, gap := true } else s

/-- DOMINANT_PULSE: the station stays IDLE, and the line counts as recessive only from the pulse's end
(03 R51). The idle measure, which start marks alone restart, goes on (03 R57; log 42). -/
def execDominantPulse (s : State) : Host.Outcome State Fault Refusal :=
  s.whenRunning fun s => if s.pli.line = .idle then s.withPli { s.pli with gap := false } else s

/-- A start mark takes place: heard from another station in IDLE, or sent by this one in IDLE when it would bid and
the line has been recessive for the gap (03 R51). -/
def State.markTaken (s : State) : MarkSource → Bool
  | .own => decide (s.pli.line = .idle) && s.pli.gap && s.wouldBid
  | .other => decide (s.pli.line = .idle)

/-- START_MARK: BIDDING in a new window; the idle measure restarts (03 R51, R57). -/
def execStartMark (source : MarkSource) (s : State) : Host.Outcome State Fault Refusal :=
  s.whenRunning fun s =>
    if s.markTaken source then
      s.withPli { s.pli with
        line := .bidding, gap := false, ownSlot := none, forfeited := false, idle := s.idleMeasureLoad }
    else s

/-- OWN_SLOT_BEGINS: the station asserts its slot exactly when the four conditions hold at this moment (03 R52). -/
def execOwnSlotBegins (s : State) : Host.Outcome State Fault Refusal :=
  s.whenRunning fun s =>
    if s.pli.line = .bidding ∧ s.pli.ownSlot = none then s.withPli { s.pli with ownSlot := some s.wouldBid } else s

/-- IDLE_MEASURE_EXPIRY: the origin becomes 15 and the flag is set; the measure stays run out until the next start
mark (03 R57). -/
def execIdleMeasureExpiry (s : State) : Host.Outcome State Fault Refusal :=
  s.whenRunning fun s =>
    if s.pli.idle = .due then s.withPli { s.pli with origin := 15, synced := true, idle := .expired } else s

/-! ### Content fixed at bid win (04 R79 to R81, 05 R93) -/

/-- Snapshot entries for the locks from n upward that fit `room` bytes (05 R93). -/
def fillEntries : Nat → Nat → List LockEntry → List SnapEntry
  | _, _, [] => []
  | n, room, e :: es =>
    let b := (entryBytes (BitVec.ofNat 8 n) e).length
    if b ≤ room then ⟨BitVec.ofNat 8 n, e⟩ :: fillEntries (n + 1) (room - b) es else []

/-- The SNAPDATA for joiner j from its cursor: 96 bytes less the two fixed ones (05 R93). -/
def Replica.snapData (r : Replica) (j : Station) (cursor : Nat) : FrameBody :=
  .snapdata j (BitVec.ofNat 8 cursor) (fillEntries cursor (Config.payloadLimit - 2) (r.locks.drop cursor))

/-- The SNAPHEAD for joiner j (04 R81, 05 R92). -/
def Replica.snapHead (r : Replica) (f : FabricRecord) (j : Station) : FrameBody :=
  .snaphead ⟨j, f.digest, f.founder, r.members, r.joinList⟩

/-- What a donor item goes out as, for the head of the join list; an ALIVE where the list is empty (04 R81,
06 R99; log 26). -/
def Replica.donorBody (r : Replica) : FrameBody :=
  match r.joinList.head?, r.fabric with
  | some j, some f =>
    match (r.record j).state with
    | .refuseDue reason => .refuse j reason
    | .joining false _ => r.snapHead f j
    | .joining true c => r.snapData j c
    | _ => .alive
  | _, _ => .alive

def MembershipKind.body (d : Digest) : MembershipKind → FrameBody
  | .join => .join d
  | .found => .found d
  | .leave => .leave

def LockItem.body : LockItem → FrameBody
  | .claim o l m w => .claim o l m w
  | .free o l => .free o l
  | .withdraw o l => .withdraw o l

def State.controlBody (s : State) : ControlItem → FrameBody
  | .alive => .alive
  | .membership k => k.body s.ownDigest
  | .donor => s.replica.donorBody
  | .evict v c => .evict v c

/-- The body of the item that an id names; an ALIVE where there is none (03 R54). -/
def State.bodyOf (s : State) : ItemId → FrameBody
  | .control p => ((s.sched.controlItem p).map s.controlBody).getD .alive
  | .lock k o l => ((s.sched.lockItem (.lock k o l)).map LockItem.body).getD .alive

/-- The header epoch: a FOUND sent with the latch clear carries 0 (04 R79). -/
def State.headerEpoch (s : State) (b : FrameBody) : Word16 :=
  if b.kind = .found ∧ s.join.latch = false then 0 else s.intake.epoch

/-- The frame as filled at bid win (04 R79). -/
def State.fillFrame (s : State) (b : FrameBody) : Frame := ⟨s.self, s.join.state.sender, s.headerEpoch b, b⟩

def State.addNotice (s : State) (n : Notice) : State := s.withHand { s.hand with notices := s.hand.notices ++ [n] }

/-- A notice for the item on the line, where it is a lock-list item (06 R102). -/
def State.noticeFor (s : State) (id : ItemId) (e : NoticeEvent) : State :=
  match id with
  | .lock k o l => s.addNotice ⟨k, o, l, e⟩
  | .control _ => s

/-- The bid is won: the candidate's frame, or the ALIVE of 03 R54, goes on the line (06 R102). -/
def State.winBid (s : State) : State :=
  let go (s : State) (b : FrameBody) : State :=
    s.withPli { s.pli with line := .sending, winner := s.self, part := s.pli.synced, sent := some (s.fillFrame b),
                           copy := none, markE := false, markF := false }
  match s.candidate with
  | some id => (go (s.withSched (s.sched.won id)) (s.bodyOf id)).noticeFor id .onLine
  | none => go (s.withSched s.sched.wonUnlisted) .alive

/-- The slots heard: those of other stations and the own one (03 R52, R70). -/
def State.heardSlots (s : State) (slots : BitVec 16) : BitVec 16 :=
  if s.pli.ownSlot = some true then slots ||| (1#16 <<< s.self.val) else slots

/-- The window closes with no transmission (03 R53). -/
def Pli.closeEmpty (p : Pli) : Pli := { p with line := .idle, gap := false, ownSlot := none, forfeited := false }

/-- This station sends if it wins: it has asserted its slot, is a participant at the close, and has not ceased to be one
in between (03 R54). -/
def State.bidStands (s : State) : Bool :=
  decide (s.pli.ownSlot = some true) && s.join.state.participant && !s.pli.forfeited

/-- WINDOW_CLOSE: the winner of the slots heard. This station sends where its own bid wins and stands (03 R54; log 8);
otherwise it receives, or finds the window empty (03 R53). -/
def execWindowClose (slots : BitVec 16) (frameStart : Bool) (s : State) : Host.Outcome State Fault Refusal :=
  s.whenRunning fun s =>
    if s.pli.line = .bidding then
      match windowWinner s.pli.origin (s.heardSlots slots) with
      | none => s.withPli s.pli.closeEmpty
      | some w =>
        if w = s.self ∧ s.bidStands = true then s.winBid
        else if frameStart then
          s.withPli { s.pli with line := .receiving, winner := w, part := s.join.state.participant && s.pli.synced,
                                 sent := none, copy := none, markE := false, markF := false }
        else s.withPli s.pli.closeEmpty
    else s

/-! ### The end of the frame (03 R55, R56, R60) -/

/-- Checks 3 and 4 of 03 R56 on a copy that passed checks 1 and 2. -/
def State.copyAgrees (s : State) (f : Frame) : Bool :=
  decide (f.sender = s.pli.winner) && (!s.intake.valid || decide (f.epoch = s.intake.epoch))

/-- A receiving participant's error mark: one of the four checks fails (03 R60). -/
def State.receiverMarkE (s : State) (copy : Option Frame) : Bool :=
  match copy with
  | some f => !s.copyAgrees f
  | none => true

/-- Takes part in the veto slot: at the close, and now that the slot begins (03 R59). -/
def State.partNow (s : State) : Bool := s.pli.part && s.join.state.participant

/-- FRAME_END: the checks are made and the station enters VETO with its marks. -/
def execFrameEnd (levels : List Level) (s : State) : Host.Outcome State Fault Refusal :=
  s.whenRunning fun s =>
    match s.pli.line, s.pli.sent with
    | .sending, some f =>
      s.withPli { s.pli with line := .veto, part := s.partNow,
                             markE := s.partNow && readbackDiffers (frameLevels f) levels, markF := false }
    | .receiving, _ =>
      let copy := receiveFrame s.replica.lockLimit levels
      s.withPli { s.pli with line := .veto, part := s.partNow, copy := copy,
                             markE := s.partNow && s.receiverMarkE copy,
                             markF := s.partNow && decide (Config.applyQueueLimit ≤ s.intake.queue.length) }
    | _, _ => s

/-! ### The end of the veto slot (03 R61 to R66) -/

/-- The copy this station has of the frame on the line: its own frame, or what it received. -/
def Pli.frame (p : Pli) : Option Frame := p.sent <|> p.copy

/-- The PLI at an acceptance (03 R61): the given-veto count 0, the origin and the flag by the copy. -/
def Pli.accept (p : Pli) : Pli :=
  match p.frame with
  | some f => { p with givenVeto := 0, origin := f.sender, synced := true }
  | none => { p with givenVeto := 0, origin := p.winner, synced := false }

/-- The Intake Unit at an acceptance: a station that takes part appends the frame; the epoch advances at an
epoch-valid station with the append, and tracks the header elsewhere (04 R71, R73, R74). -/
def Intake.accept (n : Intake) (part : Bool) (frame : Option Frame) : Intake :=
  { n with
    queue := if part then n.queue ++ frame.toList else n.queue
    epoch :=
      if n.valid then (if part then n.epoch + 1 else n.epoch)
      else
        match frame with
        | some f => f.epoch + 1
        | none => n.epoch + 1 }

/-- The sender states that show an established fabric (09 R155). -/
def SenderState.established : SenderState → Bool
  | .member => true
  | .leaving => true
  | _ => false

/-- The fabric-seen latch at an acceptance (09 R155). -/
def State.seeFabric (s : State) : State :=
  match s.pli.frame with
  | some f => if s.pli.part && f.senderState.established then s.withJoin { s.join with latch := true } else s
  | none => s

/-- The notice of the item on the line at the end of its veto slot (06 R102). -/
def State.endNotice (s : State) (e : NoticeEvent) : State :=
  match s.sched.onLine with
  | .item id => s.noticeFor id e
  | _ => s

/-- What the Join Controller is told of the item on the line as it leaves its list: a rescinded membership or donor item,
its own items of 06 Table 6-1 (06 R102, R105). The Monitor is told nothing of an EVICT (08 R145; log 43). -/
def Sched.telling (c : Sched) (e : ItemEnd) : Option Telling :=
  match c.rescinded, c.onLine with
  | true, .item (.control .membership) => some ⟨.membership, e⟩
  | true, .item (.control .donor) => some ⟨.donor, e⟩
  | _, _ => none

/-- The Join Controller holds what it is told (06 R105). -/
def State.tellJoin (s : State) (e : ItemEnd) : State :=
  s.withJoin { s.join with told := s.sched.telling e <|> s.join.told }

/-- The sender's part of an acceptance (03 R61, 06 R102, R103, 08 R139). -/
def State.ownAccepted (s : State) : State :=
  let s' := (s.endNotice .accepted).tellJoin .accepted
  ((s'.withSched s'.sched.accepted).withPli { s'.pli with ownVeto := 0 }).loadOwnSilence

/-- The sender's part of a veto in the scheduler (06 R104): the notice of a lock frame, and what the Join Controller is
told of a rescinded item, with the removal of a membership item waiting to be acted on (09 R165). -/
def State.ownVetoed (s : State) : State :=
  let s' := (s.endNotice (.vetoed s.sched.rescinded)).tellJoin .removed
  let told : Bool := s.sched.rescinded && decide (s.sched.onLine = .item (.control .membership))
  let s'' := s'.withHand { s'.hand with itemRemoved := s'.hand.itemRemoved || told }
  s''.withSched s''.sched.vetoed

/-- A withdrawal is handed to the Join Controller (03 R66). -/
def State.withdrawFor (s : State) (r : DropReason) : State :=
  s.withHand { s.hand with withdrawal := s.hand.withdrawal <|> some r }

/-- A counted veto of an own frame: the count rises, and the station withdraws at 16 (03 R64). The count is then
read as 0 (log 13). -/
def State.countOwnVeto (s : State) : State :=
  let s' := s.withPli { s.pli with ownVeto := s.pli.ownVeto + 1 }
  if s.pli.ownVeto.toNat + 1 = Config.ownVetoLimit then s'.withdrawFor .withdrawnTx else s'

/-- A counted veto that this station gave: the count rises, and the station withdraws at 8 (03 R65; log 13). -/
def State.countGivenVeto (s : State) : State :=
  let s' := s.withPli { s.pli with givenVeto := s.pli.givenVeto + 1 }
  if s.pli.givenVeto.toNat + 1 = Config.givenVetoLimit then s'.withdrawFor .withdrawnRx else s'

/-- A frame of this station that takes no part any more leaves the line: the on-the-line reference is cleared
(03 R63, 06 R108). -/
def State.releaseLine (s : State) : State :=
  s.withSched { s.sched with onLine := .nothing, rescinded := false, held := none }

/-- The slot ended with neither mark (03 R61). -/
def State.acceptFrame (s : State) : State :=
  let s1 := (s.withIntake (s.intake.accept s.pli.part s.pli.frame)).seeFabric
  let s2 := s1.withPli s1.pli.accept
  if s.pli.sent = none then s2 else if s.pli.part then s2.ownAccepted else s2.releaseLine

/-- The slot ended with a mark; e: the error mark was heard (03 R62). -/
def State.vetoFrame (s : State) (e : Bool) : State :=
  if s.pli.sent = none then if s.pli.part && s.pli.markE then s.countGivenVeto else s
  else if s.pli.part then if e then s.ownVetoed.countOwnVeto else s.ownVetoed
  else s.releaseLine

/-- The line after a veto slot: in VETO until the inter-frame gap has been heard (03 Table 3-1); unobserved after a slot
that was not in its place (05 R87; log 10). -/
def Pli.afterSlot (p : Pli) (inPlace : Bool) : Pli :=
  { p with
    line := if inPlace then .vetoGap else .unobserved
    gap := false, ownSlot := none, forfeited := false, part := false, sent := none, copy := none, markE := false
    markF := false }

/-- VETO_SLOT_END: the marks heard are those of other stations and the own ones (03 R60). -/
def execVetoSlotEnd (markE markF inPlace : Bool) (s : State) : Host.Outcome State Fault Refusal :=
  s.whenRunning fun s =>
    if s.pli.line = .veto then
      let e := markE || s.pli.markE
      let f := markF || s.pli.markF
      let s' := if e || f then s.vetoFrame e else s.acceptFrame
      (s'.withPli (s'.pli.afterSlot inPlace)).settleAlive
    else s

end Sys2Proof.Machine
end

