-- ==== Sys2Proof/Machine/Requests.lean ====
section
/-! DEFINITION. The requests that the Operations Unit takes from the request buffer, each decided whole (07 R111, R115 to
R120, R126, R127, R133; 09 R153, R169; 10 R180, R181; 11 R188, R196 to R199). -/
namespace Sys2Proof.Machine

/-! ### Taking a request (07 R111, 11 R188) -/

/-- Live entries and standing replies together (07 R111). -/
def State.operationLoad (s : State) : Nat := s.ops.live.length + s.port.replies.length

/-- SETUP and ACK carry no tag; their replies carry 0 (11 Table 11-6). -/
def RequestKind.tag (k : RequestKind) (bytes : List Byte) : Byte :=
  match k with
  | .setup => 0
  | .ack => 0
  | _ => arg bytes 0

/-- SETUP and QUERY_STATION are decided in UNCONFIGURED too (07 R111). -/
def RequestKind.beforeSetup : RequestKind → Bool
  | .setup => true
  | .queryStation => true
  | _ => false

/-- The request of this kind that may be taken now: it stands COMPLETE, and live entries and replies number fewer than
32 (07 R111). -/
def State.takable (s : State) (k : RequestKind) : Option (List Byte) :=
  match s.port.buffer with
  | .complete k' bytes => if k' = k ∧ s.operationLoad < Config.operationLimit then some bytes else none
  | _ => none

/-- The reply to a request, in the event in which it is taken. -/
def State.answer (s : State) (k : RequestKind) (bytes : List Byte) (code : ResultCode) (data : List Byte) : State :=
  s.reply ⟨k.tag bytes, k, code, data⟩

/-- The request of kind k is taken: the buffer becomes EMPTY; before SETUP it is answered NOT_CONFIGURED (07 R111); else
it is decided. -/
def State.takeRequest (s : State) (k : RequestKind) (decision : List Byte → State → State) : State :=
  match s.takable k with
  | none => s
  | some bytes =>
    let s' := s.setBuffer .empty
    if s.join.state = .unconfigured ∧ k.beforeSetup = false then s'.answer k bytes .notConfigured []
    else decision bytes s'

/-- The lock is L or more, L from the straps. -/
def State.badLock (s : State) (l : Byte) : Bool := s.lockCount ≤ l.toNat

/-! ### SETUP (10 R180, R181) -/

/-- The configuration that the arguments of a SETUP give: P, M and bit 7 of the flags. -/
def setupSettings (bytes : List Byte) : Settings := ⟨arg bytes 0, arg bytes 1, (arg bytes 2).getLsbD 7⟩

def setupArgsGood (bytes : List Byte) : Bool :=
  presenceInRange (arg bytes 0) (arg bytes 1) && flagsBitsClear (arg bytes 2)

/-- What a SETUP that is taken does before its reply (10 R181). -/
def State.configure (s : State) (bytes : List Byte) : State :=
  let s1 := s.withSettings (some (setupSettings bytes))
  let s2 := s1.withPort { s1.port with mask := (arg bytes 2).extractLsb' 0 4 }
  (s2.enter .out).withPli { s2.pli with idle := s2.idleMeasureLoad }

def State.decideSetup (bytes : List Byte) (s : State) : State :=
  if s.join.state ≠ .unconfigured then s.answer .setup bytes .wrongState []
  else if setupArgsGood bytes then (s.configure bytes).answer .setup bytes .done []
  else s.answer .setup bytes .badArg []

/-! ### JOIN and DETACH (09 R153, R169; 07 R133) -/

def State.decideJoin (bytes : List Byte) (s : State) : State :=
  if s.join.state = .out then (s.withOps (s.ops.add ⟨arg bytes 0, .join⟩)).enterJoining
  else s.answer .join bytes .wrongState []

/-- The DETACH that is taken in MEMBER: LEAVING, the end of donor duty, the LEAVE, the flush, and the DETACH live
(09 R169, 07 R133). The LEAVE stands at the end, so no ALIVE is queued; that the scheduler may have been idle between
the removal of the donor item and the queueing of the LEAVE is not asked (log 39). -/
def State.startLeaving (s : State) (tag : Byte) : State :=
  let s1 := s.enter .leaving
  let s2 := s1.evaluateDuty s1.replica.donor s1.replica.joinList.head?
  let s3 := (s2.queueMembership .leave).flushOutbound
  s3.withOps (s3.ops.add ⟨tag, .detach⟩)

def State.decideDetach (bytes : List Byte) (s : State) : State :=
  if s.join.state = .member then s.startLeaving (arg bytes 0) else s.answer .detach bytes .wrongState []

/-! ### ACQUIRE (07 R115 to R117) -/

def argOwner (bytes : List Byte) : Owner := lowNibble (arg bytes 1)

def argLock (bytes : List Byte) : Byte := arg bytes 2

/-- The ACQUIRE that its arguments describe, as it becomes live: in OUTBOUND, and with the wait flag clear its limit is
stored as 0 (07 R117). -/
def newAcquire (bytes : List Byte) : Acquire :=
  { owner := argOwner bytes, lock := argLock bytes, mode := modeBit (arg bytes 1), wait := waitBit (arg bytes 1),
    limit := if waitBit (arg bytes 1) then waitLimitArg bytes else 0, phase := .outbound, attached := false }

/-- The re-entrant ACQUIRE, answered from its HELD record (07 R115). -/
def State.reenter (s : State) (bytes : List Byte) (h : HoldRecord) (a : Acquire) : State :=
  if h.mode = .s ∧ a.mode = .x then s.answer .acquire bytes .modeConflict []
  else if Config.depthLimit ≤ h.depth then s.answer .acquire bytes .depth []
  else
    (s.withOps (s.ops.updateHeld a.owner a.lock fun h => { h with depth := h.depth + 1 })).answer
      .acquire bytes .granted []

/-- The fast refusal applies: wait clear, no RELEASING record, and the applied entry shows the claim not grantable. An
UNKNOWN entry shows nothing (07 R117, 01 R4). -/
def State.fastBusy (s : State) (a : Acquire) : Bool :=
  !a.wait && !s.ops.releasing a.owner a.lock && !decide ((s.replica.entry a.lock).state = .unknown)
    && !(s.replica.entry a.lock).grantable a.mode

/-- The CLAIM is queued and the ACQUIRE lives in OUTBOUND (07 R117). -/
def State.sendClaim (s : State) (tag : Byte) (a : Acquire) : State :=
  (s.withOps (s.ops.add ⟨tag, .acquire a⟩)).queueLock (.claim a.owner a.lock a.mode a.wait)

/-- An ACQUIRE without a HELD record (07 R116, R117). -/
def State.newClaim (s : State) (bytes : List Byte) (a : Acquire) : State :=
  if (s.ops.acquire a.owner a.lock).isSome then s.answer .acquire bytes .duplicate []
  else if Config.holdLimit ≤ s.ops.load then s.answer .acquire bytes .holdFull []
  else if s.fastBusy a then s.answer .acquire bytes .busy []
  else s.sendClaim (arg bytes 0) a

def State.decideAcquire (bytes : List Byte) (s : State) : State :=
  let a := newAcquire bytes
  if s.join.state ≠ .member then s.answer .acquire bytes .notMember []
  else if acquireBitsClear (arg bytes 1) = false then s.answer .acquire bytes .badArg []
  else if s.badLock a.lock then s.answer .acquire bytes .badLock []
  else
    match s.ops.held a.owner a.lock with
    | some h => s.reenter bytes h a
    | none => s.newClaim bytes a

/-! ### RELEASE (07 R120) -/

/-- The RELEASE of a HELD record. -/
def State.releaseHeld (s : State) (bytes : List Byte) (h : HoldRecord) : State :=
  let o := argOwner bytes
  let l := argLock bytes
  if 1 < h.depth then
    (s.withOps (s.ops.updateHeld o l fun h => { h with depth := h.depth - 1 })).answer .release bytes .released []
  else
    let s' := s.withOps (s.ops.updateHeld o l fun h => { h with releasing := true })
    (s'.withOps (s'.ops.add ⟨arg bytes 0, .release o l .outbound⟩)).queueLock (.free o l)

/-- The checks that RELEASE and CANCEL share, BAD_ARG before BAD_LOCK (07 R120, R126). -/
def State.badOwnerOrLock (s : State) (bytes : List Byte) : Option ResultCode :=
  if highBitsClear (arg bytes 1) = false then some .badArg
  else if s.badLock (argLock bytes) then some .badLock
  else none

def State.decideRelease (bytes : List Byte) (s : State) : State :=
  match s.badOwnerOrLock bytes with
  | some code => s.answer .release bytes code []
  | none =>
    match s.ops.held (argOwner bytes) (argLock bytes) with
    | none => s.answer .release bytes .notHolder []
    | some h => s.releaseHeld bytes h

/-! ### CANCEL (07 R126, R127) -/

/-- The CANCEL becomes live, attached to the ACQUIRE of the pair. -/
def State.attach (s : State) (tag : Byte) (o : Owner) (l : Byte) : State :=
  s.withOps ((s.ops.updateAcquire o l fun a => { a with attached := true }).add ⟨tag, .cancel o l⟩)

/-- A target in OUTBOUND: the removal of its CLAIM is asked for, and the answer decides (07 R127). The CLAIM not present
has been accepted, its notices still to come: the CANCEL waits (log 21). -/
def State.cancelTarget (s : State) (tag : Byte) (a : Acquire) : State :=
  match a.phase with
  | .outbound => (s.attach tag a.owner a.lock).cancelOutbound a.owner a.lock
  | .queued _ => (s.attach tag a.owner a.lock).beginWithdraw a.owner a.lock .cancel
  | _ => s.attach tag a.owner a.lock

/-- The target is WITHDRAWING or carries a CANCEL already (07 Table 7-5). -/
def Acquire.noTarget (a : Acquire) : Bool :=
  a.attached ||
    match a.phase with
    | .withdrawing _ => true
    | _ => false

def State.decideCancel (bytes : List Byte) (s : State) : State :=
  match s.badOwnerOrLock bytes with
  | some code => s.answer .cancel bytes code []
  | none =>
    match s.ops.acquire (argOwner bytes) (argLock bytes) with
    | none => s.answer .cancel bytes .noTarget []
    | some a =>
      if a.noTarget then s.answer .cancel bytes .noTarget []
      else (s.cancelTarget (arg bytes 0) a).settleAlive

/-! ### Queries and ACK (11 R196 to R199) -/

def State.decideQueryLock (bytes : List Byte) (s : State) : State :=
  if s.badLock (arg bytes 1) then s.answer .queryLock bytes .badLock []
  else s.answer .queryLock bytes .done (entryBytes (arg bytes 1) (s.replica.entry (arg bytes 1)))

def State.decideQueryMembers (bytes : List Byte) (s : State) : State :=
  s.answer .queryMembers bytes .done (membershipBytes s.replica.members s.replica.joinList)

/-- The data of QUERY_STATION (11 Table 11-9). -/
def State.stationData (s : State) : List Byte :=
  [BitVec.ofNat 8 (s.join.state.code + 16 * s.join.state.subCode),
   dropRecordByte s.join.dropRecord,
   BitVec.ofNat 8 s.pli.ownVeto.toNat,
   BitVec.ofNat 8 s.pli.givenVeto.toNat,
   BitVec.ofNat 8 s.ops.live.length,
   BitVec.ofNat 8 s.ops.holds.length,
   BitVec.ofNat 8 s.replica.poolUse]
  ++ wordBytes s.intake.epoch
  ++ [BitVec.ofNat 8 (s.port.attention.toNat + 64 * s.intake.valid.toNat + 128 * s.monitor.lone.toNat),
      s.port.lastError.code]

def State.decideQueryStation (bytes : List Byte) (s : State) : State :=
  s.answer .queryStation bytes .done s.stationData

def State.decideAck (bytes : List Byte) (s : State) : State :=
  if highBitsClear (arg bytes 0) then
    (s.withPort (s.port.acknowledge ((arg bytes 0).extractLsb' 0 4))).answer .ack bytes .done []
  else s.answer .ack bytes .badArg []

/-! ### The commands -/

/-- SETUP (10 R180, R181). -/
def execSetup (s : State) : Host.Outcome State Fault Refusal :=
  s.whenRunning fun s => s.takeRequest .setup State.decideSetup

/-- JOIN (09 R153, R154). -/
def execJoin (s : State) : Host.Outcome State Fault Refusal :=
  s.whenRunning fun s => s.takeRequest .join State.decideJoin

/-- DETACH (09 R169). -/
def execDetach (s : State) : Host.Outcome State Fault Refusal :=
  s.whenRunning fun s => s.takeRequest .detach State.decideDetach

/-- ACQUIRE (07 R115 to R117). -/
def execAcquire (s : State) : Host.Outcome State Fault Refusal :=
  s.whenRunning fun s => s.takeRequest .acquire State.decideAcquire

/-- RELEASE (07 R120). -/
def execRelease (s : State) : Host.Outcome State Fault Refusal :=
  s.whenRunning fun s => s.takeRequest .release State.decideRelease

/-- CANCEL (07 R126, R127). -/
def execCancel (s : State) : Host.Outcome State Fault Refusal :=
  s.whenRunning fun s => s.takeRequest .cancel State.decideCancel

/-- QUERY_LOCK (11 R197). -/
def execQueryLock (s : State) : Host.Outcome State Fault Refusal :=
  s.whenRunning fun s => s.takeRequest .queryLock State.decideQueryLock

/-- QUERY_MEMBERS (11 R198). -/
def execQueryMembers (s : State) : Host.Outcome State Fault Refusal :=
  s.whenRunning fun s => s.takeRequest .queryMembers State.decideQueryMembers

/-- QUERY_STATION (11 R199). -/
def execQueryStation (s : State) : Host.Outcome State Fault Refusal :=
  s.whenRunning fun s => s.takeRequest .queryStation State.decideQueryStation

/-- ACK (11 R196). -/
def execAck (s : State) : Host.Outcome State Fault Refusal :=
  s.whenRunning fun s => s.takeRequest .ack State.decideAck

end Sys2Proof.Machine
end

