-- ==== Sys2Proof/Machine/Timebase.lean ====
section
/-! DEFINITION. RESET and its release, and the tick that reaches every timer of the part (08 R136, R137, R142; 10 R176
to R178). -/
namespace Sys2Proof.Machine

/-- RESET is driven high: the drivers turn off, no tick is delivered and accesses are ignored (10 R177). Every other
block takes its reset value at the release (log 29). -/
def Pli.silenced (p : Pli) : Pli :=
  { p with line := .unobserved, gap := false, ownSlot := none, forfeited := false, part := false, sent := none, copy := none,
           markE := false, markF := false }

/-- HARDWARE_RESET (10 R177). -/
def execHardwareReset (s : State) : Host.Outcome State Fault Refusal :=
  .next ((s.withPli s.pli.silenced).withResetHeld true)

/-- RESET_RELEASE: the straps are sampled and every block takes its reset value (10 R176, R178). It takes place while
RESET is held. The commands that wait, being still to come, are kept (log 33). -/
def execResetRelease (straps : Straps) (s : State) : Host.Outcome State Fault Refusal :=
  .next (if s.resetHeld then (resetState straps).withPending s.pending else s)

/-- The counters of the Presence Monitor take a tick; the isolation counter falls only while the member table names
another station (08 R142, R146). -/
def Monitor.tick (m : Monitor) (namesOther : Bool) : Monitor :=
  { m with
    ownSilence := m.ownSilence.tick
    countdowns := Vector.ofFn fun v : Station => m.countdowns[v].tick
    isolation := if namesOther then m.isolation.tick else m.isolation }

/-- The idle measure counts: in IDLE, and on an unobserved line that is quiet (03 R57, 08 Table 8-1, 10 R181; log 40). -/
def Pli.countsIdle (p : Pli) (quiet : Bool) : Bool :=
  decide (p.line = .idle) || (decide (p.line = .unobserved) && quiet)

/-- The idle measure takes a tick. -/
def Pli.tick (p : Pli) (quiet : Bool) : Pli := { p with idle := if p.countsIdle quiet then p.idle.tick else p.idle }

/-- The two timers of the Join Controller take a tick (09 R157, R174). -/
def JoinControl.tick (j : JoinControl) : JoinControl := { j with joinWait := j.joinWait.tick, rejoin := j.rejoin.tick }

/-- Every timer takes the tick (08 R137, Table 8-1). -/
def State.tick (s : State) (quiet : Bool) : State :=
  (((s.withPli (s.pli.tick quiet)).withOps { s.ops with live := s.ops.live.map Operation.tick }).withMonitor
    (s.monitor.tick (s.replica.namesOther s.self))).withJoin s.join.tick

/-- An edge on TICK is taken. -/
def State.edge (s : State) : TickSource → State
  | .divider => s
  | .pinEdge _ => s.withEdgeTaken true

/-- TICK (08 R136, R137): a tick of the source that the strap selects. -/
def execTick (tick : Tick) (s : State) : Host.Outcome State Fault Refusal :=
  s.whenRunning fun s => if tickTaken s.straps.tsel s.edgeTaken tick.source then (s.edge tick.source).tick tick.quiet else s

end Sys2Proof.Machine
end

