-- ==== Sys2Proof/Machine/Dispatch.lean ====
section
/-! DEFINITION. What each command does: one direct call of its meaning for each constructor of Instr. -/
namespace Sys2Proof.Machine

def exec (i : Instr) (s : State) : Host.Outcome State Fault Refusal :=
  match i with
  | .hardwareReset => Sys2Proof.Machine.execHardwareReset s
  | .resetRelease straps => Sys2Proof.Machine.execResetRelease straps s
  | .tick tick => Sys2Proof.Machine.execTick tick s
  | .idleMeasureExpiry => Sys2Proof.Machine.execIdleMeasureExpiry s
  | .waitTimerExpiry owner lock => Sys2Proof.Machine.execWaitTimerExpiry owner lock s
  | .ownSilenceExpiry => Sys2Proof.Machine.execOwnSilenceExpiry s
  | .silenceCountdownExpiry v => Sys2Proof.Machine.execSilenceCountdownExpiry v s
  | .isolationExpiry => Sys2Proof.Machine.execIsolationExpiry s
  | .joinWaitExpiry => Sys2Proof.Machine.execJoinWaitExpiry s
  | .rejoinTimerExpiry => Sys2Proof.Machine.execRejoinTimerExpiry s
  | .lineIdleGap => Sys2Proof.Machine.execLineIdleGap s
  | .startMark source => Sys2Proof.Machine.execStartMark source s
  | .windowClose slots frameStart => Sys2Proof.Machine.execWindowClose slots frameStart s
  | .frameEnd levels => Sys2Proof.Machine.execFrameEnd levels s
  | .vetoSlotEnd markE markF inPlace => Sys2Proof.Machine.execVetoSlotEnd markE markF inPlace s
  | .applyClaim => Sys2Proof.Machine.execApplyClaim s
  | .applyFree => Sys2Proof.Machine.execApplyFree s
  | .applyWithdraw => Sys2Proof.Machine.execApplyWithdraw s
  | .applyJoin => Sys2Proof.Machine.execApplyJoin s
  | .applyFound => Sys2Proof.Machine.execApplyFound s
  | .applyLeave => Sys2Proof.Machine.execApplyLeave s
  | .applyEvict => Sys2Proof.Machine.execApplyEvict s
  | .applyRefuse => Sys2Proof.Machine.execApplyRefuse s
  | .applySnaphead => Sys2Proof.Machine.execApplySnaphead s
  | .applySnapdata => Sys2Proof.Machine.execApplySnapdata s
  | .applyAlive => Sys2Proof.Machine.execApplyAlive s
  | .claimOutcome => Sys2Proof.Machine.execClaimOutcome s
  | .freeOutcome => Sys2Proof.Machine.execFreeOutcome s
  | .withdrawOutcome => Sys2Proof.Machine.execWithdrawOutcome s
  | .grantNotice => Sys2Proof.Machine.execGrantNotice s
  | .lockFrameOnLine => Sys2Proof.Machine.execLockFrameOnLine s
  | .lockFrameAccepted => Sys2Proof.Machine.execLockFrameAccepted s
  | .lockFrameVetoed => Sys2Proof.Machine.execLockFrameVetoed s
  | .ownJoinApplied => Sys2Proof.Machine.execOwnJoinApplied s
  | .ownFoundApplied => Sys2Proof.Machine.execOwnFoundApplied s
  | .otherFoundApplied => Sys2Proof.Machine.execOtherFoundApplied s
  | .ownSnapheadTaken => Sys2Proof.Machine.execOwnSnapheadTaken s
  | .ownSnapdataTaken => Sys2Proof.Machine.execOwnSnapdataTaken s
  | .membershipItemRemoved => Sys2Proof.Machine.execMembershipItemRemoved s
  | .refuseTaken => Sys2Proof.Machine.execRefuseTaken s
  | .ownLeaveApplied => Sys2Proof.Machine.execOwnLeaveApplied s
  | .evictNamingSelf => Sys2Proof.Machine.execEvictNamingSelf s
  | .donorDutyEvaluation => Sys2Proof.Machine.execDonorDutyEvaluation s
  | .presenceHandOver => Sys2Proof.Machine.execPresenceHandOver s
  | .drop => Sys2Proof.Machine.execDrop s
  | .kindByteWrite access value => Sys2Proof.Machine.execKindByteWrite access value s
  | .argumentByteWrite access value => Sys2Proof.Machine.execArgumentByteWrite access value s
  | .replyRead access => Sys2Proof.Machine.execReplyRead access s
  | .setup => Sys2Proof.Machine.execSetup s
  | .join => Sys2Proof.Machine.execJoin s
  | .detach => Sys2Proof.Machine.execDetach s
  | .acquire => Sys2Proof.Machine.execAcquire s
  | .release => Sys2Proof.Machine.execRelease s
  | .cancel => Sys2Proof.Machine.execCancel s
  | .queryLock => Sys2Proof.Machine.execQueryLock s
  | .queryMembers => Sys2Proof.Machine.execQueryMembers s
  | .queryStation => Sys2Proof.Machine.execQueryStation s
  | .ack => Sys2Proof.Machine.execAck s
  | .ownSlotBegins => Sys2Proof.Machine.execOwnSlotBegins s
  | .dominantPulse => Sys2Proof.Machine.execDominantPulse s

end Sys2Proof.Machine
end

