-- ==== Sys2Proof/Safety.lean ====
section
/-! DEFINITION. What counts as a safe state, and the words in which the statements speak: invariants of one station,
frames that a sender may send, the distance of a station from the origin, what an application leaves alone. -/
namespace Sys2Proof.Safety
open Sys2Proof.Machine

/-! ### Invariants -/

/-- Replies and live operations together stay within the operation table (07 R111). -/
def OperationsBounded (s : State) : Prop :=
  s.port.replies.length + s.ops.live.length ≤ 32

/-- One hold record for a pair of lock and owner, and every depth from 1 to 8 (07 R114). -/
def HoldsSound (s : State) : Prop :=
  (s.ops.holds.map fun h => (h.lock, h.owner)).Nodup ∧ ∀ h ∈ s.ops.holds, 1 ≤ h.depth ∧ h.depth ≤ 8

/-- The apply queue holds at most 4 frames (04 R71), and has room wherever an append may follow: from an asserted
own slot through the own frame (03 R52), and from a slot without the full mark (03 R60). -/
def ApplyQueueBounded (s : State) : Prop :=
  s.intake.queue.length ≤ 4
  ∧ (s.pli.line = .bidding → s.pli.ownSlot = some true → s.intake.queue.length < 4)
  ∧ (s.pli.line = .sending → s.intake.queue.length < 4)
  ∧ (s.pli.line = .veto → s.pli.part = true → s.pli.markF = false → s.intake.queue.length < 4)

/-- At most one control item for a purpose (06 R98); the retry mark and the on-the-line reference name items that
stand in a list (06 R96); only an item on the line is rescinded (06 R97) or has a replacement held (06 R98). -/
def SchedulerSound (c : Sched) : Prop :=
  (c.control.map ControlItem.purpose).Nodup
  ∧ (∀ id, c.retry = some id → c.holds id = true)
  ∧ (∀ id, c.onLine = .item id → c.holds id = true)
  ∧ (c.rescinded = true → ∃ id, c.onLine = .item id)
  ∧ (c.held.isSome = true → c.onLine = .item (.control .membership))

/-- A lock entry as 01 R1 to R3 allow it after an application: the state fits the holders, the holders stand in
ascending order, the queue holds at most 16 records, a FREE entry has none, and no claimant appears twice. -/
def EntrySound (e : LockEntry) : Prop :=
  (match e.state with
    | .free => e.holders = [] ∧ e.waiters = []
    | .excl => e.holders.length = 1
    | .shared => 1 ≤ e.holders.length ∧ e.holders.length ≤ 8
    | .unknown => e.holders = [] ∧ e.waiters = [])
  ∧ e.holders.Pairwise (fun a b => a.before b = true)
  ∧ e.waiters.length ≤ 16
  ∧ (e.holders ++ e.waiters.map Waiter.claimant).Nodup

/-- The join list and the member table agree (02 R32): at most 15 stations, no duplicates, and exactly those whose
record is JOINING or REFUSE_DUE. -/
def JoinListSound (members : Vector MemberRecord 16) (joinList : List Station) : Prop :=
  joinList.length ≤ 15 ∧ joinList.Nodup ∧ ∀ s : Station, s ∈ joinList ↔ members[s].state.listed = true

/-- The snapshot entries of a frame are sound entries. -/
def EntriesSound (f : Frame) : Prop :=
  match f.body with
  | .snapdata _ _ es => ∀ e ∈ es, EntrySound e.entry
  | _ => True

/-- The member table of a snapshot head agrees with its join list. -/
def HeadSound (f : Frame) : Prop :=
  match f.body with
  | .snaphead h => JoinListSound h.members h.joinList
  | _ => True

/-- A property of frames holds of every frame the station keeps: in the apply queue, on the line, received. -/
def OfEveryFrame (p : Frame → Prop) (s : State) : Prop :=
  (∀ f ∈ s.intake.queue, p f) ∧ (∀ f, s.pli.sent = some f → p f) ∧ (∀ f, s.pli.copy = some f → p f)

/-- The lock table has L entries, each sound, and every frame kept carries sound entries (01 R1 to R3). -/
def LockTableSound (s : State) : Prop :=
  s.replica.locks.length = lockSpace s.straps
  ∧ (∀ e ∈ s.replica.locks, EntrySound e)
  ∧ OfEveryFrame EntriesSound s

/-- The member table and the join list agree (02 R32), name no one where no fabric record is held (02 R49), and every
frame kept carries a sound head. -/
def MembershipSound (s : State) : Prop :=
  JoinListSound s.replica.members s.replica.joinList
  ∧ (s.replica.fabric = none → ∀ v : Station, s.replica.members[v] = absentRecord)
  ∧ OfEveryFrame HeadSound s

/-! ### The line -/

/-- How far station s stands behind the origin in rotation order: 1 to 16 (03 R58). -/
def rotationDistance (origin s : Station) : Nat := (s.val + 15 - origin.val) % 16 + 1

/-- The conditions of 03 R52. -/
def MayBid (s : State) : Prop :=
  s.join.state.participant = true ∧ s.pli.synced = true
    ∧ s.sched.candidate s.intake.queue.isEmpty ≠ none ∧ s.intake.queue.length < 4

/-- The slots heard in a window: those of the others and, if asserted, the own one. -/
def heard (s : State) (slots : BitVec 16) (n : Station) : Prop :=
  slots.getLsbD n.val = true ∨ (n = s.straps.station ∧ s.pli.ownSlot = some true)

/-- What the Join Controller has been told last after the end of the veto slot of an own frame: of a rescinded membership
or donor item on the line, how it left its list (06 R102, R105). -/
def toldAtEnd (s : State) (ending : ItemEnd) : Option Telling :=
  if s.sched.rescinded = true ∧ s.sched.onLine = .item (.control .membership) then some ⟨.membership, ending⟩
  else if s.sched.rescinded = true ∧ s.sched.onLine = .item (.control .donor) then some ⟨.donor, ending⟩
  else s.join.told

/-- The end of a veto slot of an own frame at the scheduler: nothing is on the line (06 R103, R104, R108). -/
def offLine (c : Sched) : Sched := { c with onLine := .nothing, rescinded := false, held := none }

/-- The own-veto count after a veto of an own frame: a counted veto raises it by one, and at 16 the withdrawal is
handed over, where none is already; a veto that is not counted leaves both (03 R62, R64, R66). What the count then reads
until the drop is log 13. -/
def OwnVetoCounted (s t : State) (counted : Prop) : Prop :=
  (¬ counted → t.pli.ownVeto = s.pli.ownVeto ∧ t.hand.withdrawal = s.hand.withdrawal)
  ∧ (counted → s.pli.ownVeto.toNat + 1 < 16 →
      t.pli.ownVeto.toNat = s.pli.ownVeto.toNat + 1 ∧ t.hand.withdrawal = s.hand.withdrawal)
  ∧ (counted → s.pli.ownVeto.toNat + 1 = 16 →
      t.hand.withdrawal = if s.hand.withdrawal = none then some .withdrawnTx else s.hand.withdrawal)

/-! ### Frames that a sender may send -/

/-- What fits the fields of a frame whose payload has a fixed length, with locks below `limit` (05 R89, R94). -/
def FixedFrame (limit : Nat) (f : Frame) : Prop :=
  match f.body with
  | .snaphead _ => False
  | .snapdata _ _ _ => False
  | .claim _ l _ _ => l.toNat < limit
  | .free _ l => l.toNat < limit
  | .withdraw _ l => l.toNat < limit
  | _ => True

/-- A SNAPHEAD whose content agrees with itself (05 R92, R95): the lock space is 64 to 256, the join list and the
records agree, and each cursor lies within the lock space. -/
def SoundHead (h : SnapHead) : Prop :=
  1 ≤ h.digest.space.toNat ∧ h.digest.space.toNat ≤ 4 ∧ JoinListSound h.members h.joinList
  ∧ ∀ v : Station, h.members[v].state.carriedCursor ≤ 64 * h.digest.space.toNat

/-- A SNAPDATA (05 R91, R93, R95): consecutive known entries from its start, at least one, all below `limit`, at most
96 bytes. -/
def SoundData (limit : Nat) (start : Byte) (es : List SnapEntry) : Prop :=
  es ≠ [] ∧ start.toNat + es.length ≤ limit
  ∧ (∀ k e, es[k]? = some e → e.lock.toNat = start.toNat + k)
  ∧ (∀ e ∈ es, EntrySound e.entry ∧ e.entry.state ≠ .unknown)
  ∧ 2 + (es.flatMap fun e => entryBytes e.lock e.entry).length ≤ 96

/-! ### Timers -/

/-- A timer after a tick it takes (08 R137): running, it falls by one, and at 0 its expiry is due (log 3); else it
stands. -/
def Fallen (before after : Timer) : Prop :=
  match before with
  | .running n => after = if n ≤ 1 then .due else .running (n - 1)
  | _ => after = before

/-- The counters of the Presence Monitor that come before station v's in the order of 08 R142 are acted on. -/
def EarlierCountersDone (s : State) (v : Nat) : Prop :=
  s.monitor.ownSilence ≠ .due ∧ ∀ w : Station, w.val < v → s.monitor.countdowns[w] ≠ .due

/-! ### Applications -/

/-- The head of the apply queue is f, and the Apply Unit takes it now. -/
def Takes (s : State) (f : Frame) (rest : List Frame) : Prop :=
  s.resetHeld = false ∧ s.intake.queue = f :: rest ∧ s.dropAwaited = false ∧ s.latchAwaited f = false

/-- The scheduler of t is that of s, with the ALIVE item queued exactly where it is idle with the own-silence counter
EXPIRED: no candidate as t's apply queue stands, and nothing on the line (08 R140, 06 R96). -/
def SchedSettled (s t : State) : Prop :=
  t.sched =
    if t.monitor.ownSilence = .expired ∧ s.sched.candidate t.intake.queue.isEmpty = none
        ∧ s.sched.onLine = .nothing then
      { s.sched with control := s.sched.control ++ [.alive] }
    else s.sched

/-- An item leaves its list, and a retry mark that named it names none; the others keep their order (06 R98, R105). -/
def itemGone (c : Sched) (id : ItemId) : Sched :=
  { c with
    control := c.control.filter fun i => i.id ≠ id
    locks := c.locks.filter fun i => i.id ≠ id
    retry := if c.retry = some id then none else c.retry }

/-- The application takes the frame f, which this station sent: it has the effect of its kind and is neither ignored
nor skipped (02 R37, Table 2-2; 01 R4, R15; 04 R77). For ALIVE and lock frames the wording is log 37. -/
def OwnTaken (s : State) (f : Frame) : Prop :=
  let r := s.replica
  let sender := r.members[f.sender].state
  let joins : Prop := sender = .absent → r.joinList.length < 15
  (r.fabric ≠ none ∧
    match f.body with
    | .alive => True
    | .leave => True
    | .join _ => joins
    | .found _ => joins
    | .evict v c => v ≠ f.sender ∧ r.members[v].state ≠ .absent ∧ r.members[v].count = c
    | .refuse j _ => sender = .member ∧ ∃ x, r.members[j].state = .refuseDue x
    | .snaphead h =>
      sender = .member ∧ r.joinList.head? = some h.joiner ∧ ∃ c, r.members[h.joiner].state = .joining false c
    | .snapdata j start _ =>
      sender = .member ∧ r.joinList.head? = some j ∧ r.members[j].state = .joining true start.toNat
    | .claim _ l _ _ => sender = .member ∧ (r.entry l).state ≠ .unknown
    | .free _ l => (r.entry l).state ≠ .unknown
    | .withdraw _ l => (r.entry l).state ≠ .unknown)
  ∨ (r.fabric = none ∧ f.body.kind = .found ∧ s.join.latch = false
      ∧ (s.join.state = .founding ∨ s.join.state = .joining .sendJoin))

/-- What the Join Controller is told of an own frame: its kind, whether it was taken, whether this station's record
reached MEMBER; of another station's frame nothing (02 R47). -/
def OwnTold (s : State) (f : Frame) (after : Replica) (told : Option OwnApplication) : Prop :=
  if f.sender = s.straps.station then
    ∃ own, told = some own ∧ own.kind = f.body.kind ∧ (own.taken = true ↔ OwnTaken s f)
      ∧ (own.reachedMember = true ↔
          s.replica.members[s.straps.station].state ≠ .member ∧ after.members[s.straps.station].state = .member)
  else told = none

/-- From s to t the frame f leaves the apply queue, the replica becomes r with f counted, and the hand-overs of one
application are appended: outcome and grants, what concerns the Join Controller closed by what became of an own frame,
the donor and the head with its record, and the Presence Monitor's (04 R78, 01 R14, 02 R31, R47). MEMBERS is set where
a record changed state (02 R48). All else stands. -/
def AppliedAs (s t : State) (f : Frame) (rest : List Frame) (r : Replica) (epoch : Option Word16)
    (ops : List OpsHandOver) (join : List JoinHandOver) : Prop :=
  let after := r.countFrame f.sender
  let changes := stateChanges s.replica after
  SchedSettled s t ∧ ∃ told, OwnTold s f after told
  ∧ t = { s with
      intake := { queue := rest, epoch := epoch.getD s.intake.epoch, valid := s.intake.valid || epoch.isSome }
      replica := after
      sched := t.sched
      port := if changes = [] then s.port else { s.port with attention := s.port.attention ||| 2 }
      hand := { s.hand with
        ops := s.hand.ops ++ ops
        join := s.hand.join ++ (join ++
          [.dutyView told after.donor (after.joinList.head?.map fun j => (j, after.members[j]))])
        monitor := s.hand.monitor ++ [⟨f.sender, changes, countChanges s.replica after⟩] } }

/-- From s to t the frame leaves the apply queue and nothing else happens. -/
def Discarded (s t : State) (rest : List Frame) : Prop :=
  SchedSettled s t ∧ t = { s with intake := { s.intake with queue := rest }, sched := t.sched }

/-- The grants that concern this station, in their order (01 R14). -/
def ownGrants (s : State) (l : Byte) (ws : List Waiter) : List OpsHandOver :=
  (ws.filter fun w => w.claimant.station = s.straps.station).map fun w => .grant w.claimant.owner l w.mode

/-- An outcome is handed over at the sender alone (01 R14). -/
def atSender (s : State) (f : Frame) (h : OpsHandOver) : List OpsHandOver :=
  if f.sender = s.straps.station then [h] else []

/-- The command that applies a frame of each kind. -/
def applyCommand : FrameKind → Instr
  | .alive => .applyAlive
  | .join => .applyJoin
  | .found => .applyFound
  | .leave => .applyLeave
  | .evict => .applyEvict
  | .refuse => .applyRefuse
  | .snaphead => .applySnaphead
  | .snapdata => .applySnapdata
  | .claim => .applyClaim
  | .free => .applyFree
  | .withdraw => .applyWithdraw

/-- The grants that the removal of a station makes at the locks from n upward: lock by lock in ascending order, at each
known entry the waiters that its one regrant grants, in queue order, once the station's waiters and holders have left
it (01 R14, R21, R22, R24). -/
def removalGrants (s : Station) (n : Nat) : List LockEntry → List Grant
  | [] => []
  | e :: above =>
    let hs := e.holders.filter fun h => h.station ≠ s
    let left : LockEntry :=
      { state := if hs = [] then .free else e.state, holders := hs
        waiters := e.waiters.filter fun w => w.claimant.station ≠ s }
    (if e.state = .unknown then [] else left.regrant.2.map fun w => ⟨BitVec.ofNat 8 n, w⟩)
      ++ removalGrants s (n + 1) above

/-! ### Operations -/

/-- Of the live operations those that fit complete, in the order of their replies, and the others stay: oldest first,
an ACQUIRE's attached CANCEL directly after it (07 R112, R132, R133). -/
inductive Completed (fits : Operation → Prop) : List Operation → List Operation → List Operation → Prop where
  | nil : Completed fits [] [] []
  | stays (op : Operation) (behind done stay : List Operation) :
      ¬ fits op → Completed fits behind done stay → Completed fits (op :: behind) done (op :: stay)
  | alone (op : Operation) (behind done stay : List Operation) :
      fits op →
      (∀ a, op.body = .acquire a → a.attached = true → ∀ c ∈ behind, c.body ≠ .cancel a.owner a.lock) →
      Completed fits behind done stay → Completed fits (op :: behind) (op :: done) stay
  | withCancel (tag ct : Byte) (a : Acquire) (between behind done stay : List Operation) :
      fits ⟨tag, .acquire a⟩ → a.attached = true → (∀ c ∈ between, c.body ≠ .cancel a.owner a.lock) →
      Completed fits (between ++ behind) done stay →
      Completed fits (⟨tag, .acquire a⟩ :: between ++ ⟨ct, .cancel a.owner a.lock⟩ :: behind)
        (⟨tag, .acquire a⟩ :: ⟨ct, .cancel a.owner a.lock⟩ :: done) stay

/-- The operation is in OUTBOUND, and its lock-list item has this name (06 R100, 07 Table 7-2). -/
def outboundWith (op : Operation) (id : ItemId) : Bool :=
  match op.body, id with
  | .acquire a, .lock .claim o l => a.phase = .outbound && a.owner = o && a.lock = l
  | .release o' l' p, .lock .free o l => p = .outbound && o' = o && l' = l
  | _, _ => false

/-- Of the live operations, a is the ACQUIRE for its pair, with this tag; `cancel` is the tag of its attached CANCEL,
if it has one; `others` are the rest in their order (07 R110, R116). -/
def AcquireLives (live : List Operation) (tag : Byte) (a : Acquire) (cancel : Option Byte) (others : List Operation) :
    Prop :=
  ∃ before after, live = before ++ ⟨tag, .acquire a⟩ :: after
    ∧ (∀ op ∈ before, op.isAcquire a.owner a.lock = false ∧ op.isCancel a.owner a.lock = false)
    ∧ match cancel with
      | none => a.attached = false ∧ others = before ++ after
      | some ct => a.attached = true ∧ ∃ p q, after = p ++ ⟨ct, .cancel a.owner a.lock⟩ :: q
          ∧ (∀ op ∈ p, op.isCancel a.owner a.lock = false) ∧ others = before ++ (p ++ q)

/-- The replies with which an ACQUIRE and its attached CANCEL complete, in their order (07 R112). -/
def pairReplies (tag : Byte) (code : ResultCode) (cancel : Option Byte) (cancelCode : ResultCode) : List Reply :=
  ⟨tag, .acquire, code, []⟩ :: cancel.toList.map fun ct => ⟨ct, .cancel, cancelCode, []⟩

/-- The hold table with a HELD record of depth 1 for the pair, and no other record of it (07 R114). -/
def withHold (hs : List HoldRecord) (l : Byte) (o : Owner) (m : Mode) : List HoldRecord :=
  (hs.filter fun h => !(h.owner = o && h.lock = l)) ++ [⟨l, o, m, 1, false⟩]

/-- The live operations in which a is the one ACQUIRE for its pair, with the ACQUIRE replaced by a'. -/
def AcquireBecomes (live live' : List Operation) (a a' : Acquire) : Prop :=
  ∃ before after tag, live = before ++ ⟨tag, .acquire a⟩ :: after
    ∧ (∀ op ∈ before ++ after, op.isAcquire a.owner a.lock = false)
    ∧ live' = before ++ ⟨tag, .acquire a'⟩ :: after

/-- An operation whose lock frame is told on the line or accepted, as 07 Table 7-2 moves it. -/
def phaseMoved (k : LockKind) (o : Owner) (l : Byte) (a b : AcquirePhase) (x y : ReleasePhase) (op : Operation) :
    Operation :=
  match k, op.body with
  | .claim, .acquire q =>
    if q.owner = o ∧ q.lock = l ∧ q.phase = a then { op with body := .acquire { q with phase := b } } else op
  | .free, .release o' l' p => if o' = o ∧ l' = l ∧ p = x then { op with body := .release o' l' y } else op
  | _, _ => op

/-! ### Entry into MEMBER -/

/-- The station becomes MEMBER: the join wait stopped, STATE set, a live JOIN completed with DONE, and donor duty
evaluated, which queues the donor item or takes it back (09 R162, R164, R167; 06 R98, R105). All else stands. -/
def EntersMember (s t : State) : Prop :=
  let donor : ItemId := .control .donor
  let duty : Bool := decide (s.replica.donor = some s.straps.station) && s.replica.joinList.head?.isSome
  ∃ (live : List Operation) (replies : List Reply) (c : Sched),
    (((∀ op ∈ s.ops.live, op.body ≠ .join) ∧ live = s.ops.live ∧ replies = [])
      ∨ ∃ before after tag, s.ops.live = before ++ ⟨tag, .join⟩ :: after ∧ (∀ op ∈ before, op.body ≠ .join)
          ∧ live = before ++ after ∧ replies = [⟨tag, .join, .done, []⟩])
    ∧ (duty = true → s.sched.holds donor = true → c = s.sched)
    ∧ (duty = true → s.sched.holds donor = false → c = { s.sched with control := s.sched.control ++ [.donor] })
    ∧ (duty = false → s.sched.holds donor = false → c = s.sched)
    ∧ (duty = false → s.sched.holds donor = true → s.sched.onLine = .item donor →
        c = { s.sched with rescinded := true })
    ∧ (duty = false → s.sched.holds donor = true → s.sched.onLine ≠ .item donor → c = itemGone s.sched donor)
    ∧ t = { s with
        ops := { s.ops with live := live }
        join := { s.join with state := .member, joinWait := .stopped, duty := duty }
        port := { s.port with
          attention := if s.join.state = .member then s.port.attention else s.port.attention ||| 1
          replies := s.port.replies ++ replies }
        sched := c }

/-! ### Requests -/

/-- The request of kind k with these argument bytes stands complete, and may be taken (07 R111). -/
def Standing (s : State) (k : RequestKind) (bytes : List Byte) : Prop :=
  s.resetHeld = false ∧ s.port.buffer = .complete k bytes ∧ s.ops.live.length + s.port.replies.length < 32

/-- The request leaves the buffer, and this reply enters the tail of the reply queue. -/
def answered (s : State) (tag : Byte) (k : RequestKind) (code : ResultCode) (data : List Byte) : State :=
  { s with port := { s.port with buffer := .empty, replies := s.port.replies ++ [⟨tag, k, code, data⟩] } }

/-- The request leaves the buffer. -/
def taken (s : State) : State := { s with port := { s.port with buffer := .empty } }

/-- The command that takes a request of each kind. -/
def requestCommand : RequestKind → Instr
  | .setup => .setup
  | .join => .join
  | .detach => .detach
  | .acquire => .acquire
  | .release => .release
  | .cancel => .cancel
  | .queryLock => .queryLock
  | .queryMembers => .queryMembers
  | .queryStation => .queryStation
  | .ack => .ack

/-- An access that the host port takes: one strobe low, and 4 REFCLK cycles or more after the last (11 R184). -/
def Timely (a : HostAccess) : Prop := a.bothStrobes = false ∧ 4 ≤ a.idleCycles

end Sys2Proof.Safety
end

