-- ==== Sys2Proof/Certificates/Slice0/Obligations.lean ====
section
/-! DEFINITION. The statements for the provers. Each says what the spec's rules say of the part's commands, states and
encodings; every equation between states names all that changes, so that it is its own frame. What one block hands to
another stands in a queue until the command that takes it (log 2): Safety.AppliedAs says what an application appends.
Safety.Takes says when a frame is taken; that a drop and a latch are waited for is log 5 and log 6. -/

open Sys2Proof Sys2Proof.Machine Sys2Proof.Safety

/-! ### Steps, reset, configuration -/

/-- Each command is one step, whole and indivisible (chapter 95): the one at the front of the queue runs on the state
with the queue's rest; with no command waiting the part
idles, the model's choice (log 28). -/
def Obligations.StepRunsTheCommandInFront : Prop :=
  (∀ (s : State) (c : Instr) (rest : List Instr),
      s.pending = c :: rest → step s = exec c { s with pending := rest })
  ∧ (∀ s : State, s.pending = [] → step s = .next s)

/-- No command stops the part, and none touches the queue of commands that wait. That a command whose event cannot
occur answers a next state is the model's choice (log 1), and so is that a reset keeps the queue (log 33). -/
def Obligations.EveryCommandCompletes : Prop :=
  ∀ (c : Instr) (s : State), ∃ t, exec c s = .next t ∧ t.pending = s.pending

/-- While RESET is held nothing takes place but the reset itself and its release, and RPY and ATN are low; a hardware
reset turns the drivers off and ends every activity on the line (10 R177; that the other blocks wait for the release
is log 29). At the release the straps are sampled and every block takes its reset value (10 R176, R178, Table 10-2);
what one block hands to another is then empty (log 2), and the counts the Monitor holds are 0 (log 22). -/
def Obligations.ResetStopsThePartAndReleasesIt : Prop :=
  (∀ (c : Instr) (s : State), s.resetHeld = true → (∀ p, c ≠ .resetRelease p) →
      ∃ t, exec c s = .next t ∧ t.resetHeld = true ∧ rpy t = false ∧ atn t = false ∧ (c ≠ .hardwareReset → t = s))
  ∧ (∀ s : State, ∃ t, exec .hardwareReset s = .next t
      ∧ t = { s with
          resetHeld := true
          pli := { s.pli with line := .unobserved, gap := false, ownSlot := none, forfeited := false, part := false,
                              sent := none, copy := none, markE := false, markF := false } }
      ∧ rpy t = false ∧ atn t = false)
  ∧ (∀ (p : Straps) (s : State), s.resetHeld = true → ∃ t, exec (.resetRelease p) s = .next t
      ∧ t.resetHeld = false ∧ t.straps = p ∧ t.settings = none ∧ t.pending = s.pending
      ∧ t.replica.locks = List.replicate (64 * (p.lspace.toNat + 1)) ⟨.unknown, [], []⟩
      ∧ t.replica.poolUse = 0 ∧ (∀ v, t.replica.stationUse v = 0)
      ∧ (∀ v : Station, t.replica.members[v] = ⟨.absent, 0⟩) ∧ t.replica.joinList = [] ∧ t.replica.fabric = none
      ∧ t.pli.line = .unobserved ∧ t.pli.origin = 15 ∧ t.pli.synced = false ∧ t.pli.idle = .stopped
      ∧ t.pli.sent = none ∧ t.pli.ownVeto = 0 ∧ t.pli.givenVeto = 0 ∧ t.edgeTaken = false
      ∧ t.pli.gap = false ∧ t.pli.ownSlot = none ∧ t.pli.forfeited = false
      ∧ t.pli.part = false ∧ t.pli.copy = none ∧ t.pli.markE = false ∧ t.pli.markF = false
      ∧ t.intake.queue = [] ∧ t.intake.epoch = 0 ∧ t.intake.valid = false
      ∧ t.sched.control = [] ∧ t.sched.locks = [] ∧ t.sched.retry = none ∧ t.sched.onLine = .nothing
      ∧ t.sched.rescinded = false ∧ t.sched.held = none
      ∧ t.ops.live = [] ∧ t.ops.holds = []
      ∧ t.monitor.ownSilence = .stopped ∧ (∀ v : Station, t.monitor.countdowns[v] = .stopped)
      ∧ t.monitor.isolation = .stopped ∧ t.monitor.lone = false ∧ (∀ v : Station, t.monitor.counts[v] = 0)
      ∧ t.hand.notices = [] ∧ t.hand.ops = [] ∧ t.hand.join = [] ∧ t.hand.monitor = []
      ∧ t.hand.itemRemoved = false ∧ t.hand.withdrawal = none ∧ t.hand.dropCause = none
      ∧ t.join.state = .unconfigured ∧ t.join.dropRecord = none ∧ t.join.latch = false
      ∧ t.join.joinWait = .stopped ∧ t.join.rejoin = .stopped ∧ t.join.duty = false ∧ t.join.told = none
      ∧ t.port.buffer = .empty ∧ t.port.replies = [] ∧ t.port.readPos = 0 ∧ t.port.attention = 0 ∧ t.port.mask = 0
      ∧ t.port.lastError = .noError ∧ rpy t = false ∧ atn t = false)

/-- The configuration holds until the next hardware reset: straps always, P, M, auto-rejoin and the attention mask once
the station is configured (10 R182). -/
def Obligations.ConfigurationHoldsUntilReset : Prop :=
  ∀ (c : Instr) (s t : State), exec c s = .next t → (∀ p, c ≠ .resetRelease p) →
    t.straps = s.straps
    ∧ (s.join.state ≠ .unconfigured →
        t.settings = s.settings ∧ t.port.mask = s.port.mask ∧ t.join.state ≠ .unconfigured)

/-! ### Ticks and expiries (08, 09, 03 R57, 07 R123) -/

/-- A tick of the selected source reaches every timer (08 R136, R137, R142, R146, Table 8-1); one that is not of the
selected source, or an edge before the least period is over, is not taken (08 R136). A timer at 0 is due until its
expiry is taken (log 3). The idle measure counts in IDLE, and on an unobserved line that is quiet (10 R181). That the
tick tells whether it is quiet, and that nothing counts before the gap after a veto slot has been heard, is the model's
reading (log 40). -/
def Obligations.TicksReachEveryTimer : Prop :=
  (∀ (source : TickSource) (quiet : Bool) (s : State), s.resetHeld = false →
      ((s.straps.tsel = false ∧ source = .divider)
        ∨ ∃ cycles, s.straps.tsel = true ∧ source = .pinEdge cycles ∧ (s.edgeTaken = false ∨ 64 ≤ cycles)) →
      ∃ t, exec (.tick ⟨source, quiet⟩) s = .next t
        ∧ t = { s with
            edgeTaken := t.edgeTaken
            pli := { s.pli with idle := t.pli.idle }
            ops := { s.ops with live := t.ops.live }
            monitor := { s.monitor with ownSilence := t.monitor.ownSilence, countdowns := t.monitor.countdowns,
                                        isolation := t.monitor.isolation }
            join := { s.join with joinWait := t.join.joinWait, rejoin := t.join.rejoin } }
        ∧ t.edgeTaken = (s.edgeTaken || s.straps.tsel)
        ∧ (if s.pli.line = .idle ∨ (s.pli.line = .unobserved ∧ quiet = true) then Fallen s.pli.idle t.pli.idle else t.pli.idle = s.pli.idle)
        ∧ Fallen s.monitor.ownSilence t.monitor.ownSilence
        ∧ (∀ v : Station, Fallen s.monitor.countdowns[v] t.monitor.countdowns[v])
        ∧ (if ∃ v : Station, v ≠ s.straps.station ∧ s.replica.members[v].state ≠ .absent then
            Fallen s.monitor.isolation t.monitor.isolation
          else t.monitor.isolation = s.monitor.isolation)
        ∧ Fallen s.join.joinWait t.join.joinWait ∧ Fallen s.join.rejoin t.join.rejoin
        ∧ t.ops.live.length = s.ops.live.length
        ∧ ∀ (n : Nat) (op : Operation), s.ops.live[n]? = some op →
            (∀ a r, op.body = .acquire a → a.phase = .queued r →
              ∃ r', Fallen r r' ∧ t.ops.live[n]? = some { op with body := .acquire { a with phase := .queued r' } })
            ∧ ((∀ a r, op.body = .acquire a → a.phase ≠ .queued r) → t.ops.live[n]? = some op))
  ∧ (∀ (source : TickSource) (quiet : Bool) (s : State),
      ((s.straps.tsel = true ∧ source = .divider)
        ∨ ∃ cycles, source = .pinEdge cycles ∧ (s.straps.tsel = false ∨ (s.edgeTaken = true ∧ cycles < 64))) →
      exec (.tick ⟨source, quiet⟩) s = .next s)

/-- Expiries. The idle measure: the origin becomes 15 and the station is line-synchronised (03 R57). The own-silence
counter: EXPIRED, and the ALIVE item is queued exactly when the scheduler is idle (08 R139, R140; 06 R96). The
isolation counter: LONE is set, and its change sets the LONE reason (08 R146, R147). The rejoin timer: the station
enters JOINING from OUT (09 R154, R174; 08 R139). That an expiry waits as due is log 3, and the order of the Monitor's
is log 4. -/
def Obligations.CounterExpiriesTakeEffect : Prop :=
  (∀ s : State, s.resetHeld = false → s.pli.idle = .due →
      exec .idleMeasureExpiry s
        = .next { s with pli := { s.pli with origin := 15, synced := true, idle := .expired } })
  ∧ (∀ s : State, s.resetHeld = false → s.monitor.ownSilence = .due →
      exec .ownSilenceExpiry s
        = .next { s with
            monitor := { s.monitor with ownSilence := .expired }
            sched :=
              if s.sched.candidate s.intake.queue.isEmpty = none ∧ s.sched.onLine = .nothing then
                { s.sched with control := s.sched.control ++ [.alive] }
              else s.sched })
  ∧ (∀ s : State, s.resetHeld = false → s.monitor.isolation = .due → EarlierCountersDone s 16 →
      exec .isolationExpiry s
        = .next { s with
            monitor := { s.monitor with isolation := .expired, lone := true }
            port := if s.monitor.lone then s.port else { s.port with attention := s.port.attention ||| 8 } })
  ∧ (∀ s : State, s.resetHeld = false → s.join.rejoin = .due → s.join.state = .out →
      exec .rejoinTimerExpiry s
        = .next { s with
            join := { s.join with state := .joining .sendJoin, latch := false, rejoin := .stopped }
            port := { s.port with attention := s.port.attention ||| 1 }
            sched := s.sched.queueControl (.membership .join)
            monitor := { s.monitor with ownSilence := .running s.period } })

/-- The wait timer expires: the ACQUIRE becomes WITHDRAWING with cause TIMER and its WITHDRAW is queued (07 R123).
That the expiry waits as due is log 3. -/
def Obligations.WaitTimerExpiryQueuesWithdraw : Prop :=
  ∀ (s : State) (a : Acquire) (live' : List Operation), s.resetHeld = false → a.phase = .queued .due →
    AcquireBecomes s.ops.live live' a { a with phase := .withdrawing .timer } →
    exec (.waitTimerExpiry a.owner a.lock) s
      = .next { s with
          ops := { s.ops with live := live' }
          sched := { s.sched with locks := s.sched.locks ++ [.withdraw a.owner a.lock] } }

/-- A silence countdown expires: EVICT(v, c) is queued exactly when a third station is still heard and no EVICT v
stands (08 R143, 06 R98). That the expiry waits as due, and after the earlier counters, is log 3 and log 4; the count
is the one last handed on (log 22). -/
def Obligations.SilenceExpiryEvictsIfAThirdIsHeard : Prop :=
  ∀ (v : Station) (s : State), s.resetHeld = false → s.monitor.countdowns[v] = .due → EarlierCountersDone s v.val →
    ∃ t, exec (.silenceCountdownExpiry v) s = .next t
      ∧ t = { s with
          monitor := { s.monitor with countdowns := s.monitor.countdowns.set v.val .expired }
          sched := t.sched }
      ∧ ((∃ w : Station, w ≠ s.straps.station ∧ w ≠ v ∧ s.monitor.countdowns[w].isRunning = true) →
          (∀ i ∈ s.sched.control, i.purpose ≠ .evict v) →
          t.sched = { s.sched with control := s.sched.control ++ [.evict v s.monitor.counts[v]] })
      ∧ ((∃ i ∈ s.sched.control, i.purpose = .evict v) → t.sched = s.sched)
      ∧ ((∀ w : Station, w ≠ s.straps.station → w ≠ v → s.monitor.countdowns[w].isRunning = false) →
          t.sched = s.sched)

/-- The join wait expires. Where the station leaves no fabric it founds, or asks again (09 R158, R159); at a fabric
without a MEMBER the joiner leaves it (09 R157), and LONE becomes clear, as the member table names no other station any
more (08 R147). The frame counts that the Monitor holds are forgotten (log 22). That its EVICT items stay in the control list is log 41. -/
def Obligations.JoinWaitExpiryActsByState : Prop :=
  (∀ s : State, s.resetHeld = false → s.join.joinWait = .due →
      (s.replica.fabric = none ∨ ∃ v : Station, s.replica.members[v].state = .member) →
      (s.join.state = .joining .awaitHead → s.join.latch = false →
        exec .joinWaitExpiry s
          = .next { s with
              join := { s.join with state := .founding, joinWait := .stopped }
              port := { s.port with attention := s.port.attention ||| 1 }
              sched := s.sched.queueControl (.membership .found) })
      ∧ ((s.join.state = .joining .awaitHead ∧ s.join.latch = true) ∨ s.join.state = .joining .loading →
        exec .joinWaitExpiry s
          = .next { s with
              join := { s.join with state := .joining .sendJoin, joinWait := .stopped }
              sched := s.sched.queueControl (.membership .join) }))
  ∧ (∀ s : State, s.resetHeld = false → s.join.joinWait = .due →
      (s.join.state = .joining .awaitHead ∨ s.join.state = .joining .loading) →
      s.replica.fabric ≠ none → (∀ v : Station, s.replica.members[v].state ≠ .member) →
      ∃ t, exec .joinWaitExpiry s = .next t
        ∧ t = { s with
            replica := emptyReplica s.straps
            intake := { s.intake with valid := false }
            monitor := t.monitor
            join := { s.join with state := .joining .sendJoin, joinWait := .stopped, latch := false }
            sched := s.sched.queueControl (.membership .join)
            port := { s.port with attention := t.port.attention } }
        ∧ (∀ v : Station, t.monitor.countdowns[v] = .stopped) ∧ t.monitor.isolation = .stopped
        ∧ t.monitor.lone = false ∧ t.monitor.ownSilence = s.monitor.ownSilence
        ∧ (∀ v : Station, t.monitor.counts[v] = 0)
        ∧ t.port.attention
            = (s.port.attention ||| (if ∃ v : Station, s.replica.members[v].state ≠ .absent then 2 else 0))
              ||| (if s.monitor.lone then 8 else 0))

/-! ### The peer line (03) -/

/-- The line's idle phases: an unobserved line becomes IDLE at the first gap heard, and so does one whose veto slot has
ended (03 R50, Table 3-1); a start mark opens a window and restarts the idle measure (03 R51, R57); a pulse leaves IDLE
and asks for a new gap (03 R51; log 9), and the idle measure goes on through it (log 42). Out of IDLE, so also within the
gap after a veto slot, neither is anything to the station (03 R51; log 1). In its own slot a station bids exactly when the
four conditions hold at that moment (03 R52). -/
def Obligations.IdleLineOpensWindowsAndSlots : Prop :=
  (∀ s : State, s.resetHeld = false →
      ((s.pli.line = .unobserved ∨ s.pli.line = .vetoGap ∨ s.pli.line = .idle) →
        exec .lineIdleGap s = .next { s with pli := { s.pli with line := .idle, gap := true } })
      ∧ (s.pli.line = .idle → exec .dominantPulse s = .next { s with pli := { s.pli with gap := false } })
      ∧ (s.pli.line ≠ .idle →
          exec .dominantPulse s = .next s ∧ ∀ source : MarkSource, exec (.startMark source) s = .next s)
      ∧ ∀ source : MarkSource, s.pli.line = .idle → (source = .own → s.pli.gap = true ∧ MayBid s) →
          exec (.startMark source) s
            = .next { s with
                pli := { s.pli with
                  line := .bidding, gap := false, ownSlot := none, forfeited := false
                  idle := if s.settings = none then .stopped else .running s.joinWaitTicks } })
  ∧ (∀ s : State, s.resetHeld = false → s.pli.line = .bidding → s.pli.ownSlot = none →
      (MayBid s → exec .ownSlotBegins s = .next { s with pli := { s.pli with ownSlot := some true } })
      ∧ (¬ MayBid s → exec .ownSlotBegins s = .next { s with pli := { s.pli with ownSlot := some false } }))

/-- The winner of a window is the asserted slot nearest the origin in rotation order, the origin's own slot last (03
R53). A bidder that does not win has stood farther than the winner, and the winner's acceptance brings the origin
nearer to it (03 R58). -/
def Obligations.WinnerIsNearestTheOrigin : Prop :=
  (∀ (origin : Station) (slots : BitVec 16) (w : Station),
      windowWinner origin slots = some w ↔
        slots.getLsbD w.val = true
          ∧ ∀ v : Station, slots.getLsbD v.val = true → rotationDistance origin w ≤ rotationDistance origin v)
  ∧ (∀ (origin : Station) (slots : BitVec 16) (w s : Station),
      windowWinner origin slots = some w → slots.getLsbD s.val = true → s ≠ w →
        rotationDistance w s < rotationDistance origin s)

/-- A window closes without a transmission, or with another station's frame (03 R53, R59, Table 3-1). A participant
that wins with its own bid sends its candidate's frame, or the ALIVE of 03 R54; the header is filled at this instant
(03 R54, 04 R79, 06 R102; log 8). The ALIVE takes no candidate, and a retry mark is kept (06 R101). That the gap must
be heard anew after an empty window is log 9. A station that has ceased to be a participant between its slot and the
close sends nothing, also where it is one again (03 R54). -/
def Obligations.WindowCloseDecidesTheTransmission : Prop :=
  (∀ (slots : BitVec 16) (frameStart : Bool) (s : State), s.resetHeld = false → s.pli.line = .bidding →
      ((∀ n, ¬ heard s slots n) →
        exec (.windowClose slots frameStart) s
          = .next { s with pli := { s.pli with line := .idle, gap := false, ownSlot := none, forfeited := false } })
      ∧ ∀ w : Station, heard s slots w →
          (∀ n, heard s slots n → rotationDistance s.pli.origin w ≤ rotationDistance s.pli.origin n) →
          (w ≠ s.straps.station ∨ s.pli.ownSlot ≠ some true ∨ s.join.state.participant = false
            ∨ s.pli.forfeited = true) →
          exec (.windowClose slots frameStart) s
            = .next { s with
                pli :=
                  if frameStart then
                    { s.pli with
                      line := .receiving, winner := w
                      part := s.join.state.participant && s.pli.synced
                      sent := none, copy := none, markE := false, markF := false }
                  else { s.pli with line := .idle, gap := false, ownSlot := none, forfeited := false } })
  ∧ (∀ (slots : BitVec 16) (frameStart : Bool) (s : State), s.resetHeld = false → s.pli.line = .bidding →
      s.pli.ownSlot = some true → s.join.state.participant = true → s.pli.forfeited = false →
      (∀ n, heard s slots n → rotationDistance s.pli.origin s.straps.station ≤ rotationDistance s.pli.origin n) →
      ∃ (t : State) (body : FrameBody), exec (.windowClose slots frameStart) s = .next t
        ∧ t = { s with
            pli := { s.pli with
              line := .sending, winner := s.straps.station, part := s.pli.synced
              sent := some ⟨s.straps.station, s.join.state.sender,
                if body.kind = .found ∧ s.join.latch = false then 0 else s.intake.epoch, body⟩
              copy := none, markE := false, markF := false }
            sched := t.sched
            hand := { s.hand with notices := t.hand.notices } }
        ∧ (s.sched.candidate s.intake.queue.isEmpty = none →
            body = .alive ∧ t.hand.notices = s.hand.notices
              ∧ t.sched = { s.sched with onLine := .unlisted, rescinded := false, held := none })
        ∧ ∀ id, s.sched.candidate s.intake.queue.isEmpty = some id →
            body = s.bodyOf id
              ∧ t.sched = { s.sched with retry := none, onLine := .item id, rescinded := false, held := none }
              ∧ t.hand.notices = s.hand.notices ++
                  (match id with
                    | .lock k o l => [⟨k, o, l, .onLine⟩]
                    | .control _ => []))

/-- Every frame is what its list item says, and a donor item is filled for the head of the join list from the replica
at bid win (04 R80, R81). A SNAPDATA carries the consecutive entries from its start that fit the payload, and stops
only at the end of the table or where the next would not fit (04 R81, 05 R93). -/
def Obligations.ListItemsFixTheFrame : Prop :=
  (∀ s : State,
      (∀ o l m w, s.sched.lockItem (.lock .claim o l) = some (.claim o l m w) →
        s.bodyOf (.lock .claim o l) = .claim o l m w)
      ∧ (∀ o l, s.sched.lockItem (.lock .free o l) = some (.free o l) → s.bodyOf (.lock .free o l) = .free o l)
      ∧ (∀ o l, s.sched.lockItem (.lock .withdraw o l) = some (.withdraw o l) →
        s.bodyOf (.lock .withdraw o l) = .withdraw o l)
      ∧ (s.sched.controlItem .alive = some .alive → s.bodyOf (.control .alive) = .alive)
      ∧ (∀ v c, s.sched.controlItem (.evict v) = some (.evict v c) → s.bodyOf (.control (.evict v)) = .evict v c)
      ∧ (s.sched.controlItem .membership = some (.membership .join) →
          s.bodyOf (.control .membership) = .join s.ownDigest)
      ∧ (s.sched.controlItem .membership = some (.membership .found) →
          s.bodyOf (.control .membership) = .found s.ownDigest)
      ∧ (s.sched.controlItem .membership = some (.membership .leave) → s.bodyOf (.control .membership) = .leave)
      ∧ (s.sched.controlItem .donor = some .donor →
          (s.replica.joinList = [] → s.bodyOf (.control .donor) = .alive)
          ∧ ∀ j rest fr, s.replica.joinList = j :: rest → s.replica.fabric = some fr →
              (∀ reason, s.replica.members[j].state = .refuseDue reason →
                s.bodyOf (.control .donor) = .refuse j reason)
              ∧ (∀ c, s.replica.members[j].state = .joining false c →
                  s.bodyOf (.control .donor)
                    = .snaphead ⟨j, fr.digest, fr.founder, s.replica.members, s.replica.joinList⟩)
              ∧ (∀ c, s.replica.members[j].state = .joining true c →
                  s.bodyOf (.control .donor)
                    = .snapdata j (BitVec.ofNat 8 c) (fillEntries c 94 (s.replica.locks.drop c)))))
  ∧ (∀ (n room : Nat) (locks : List LockEntry),
      let es := fillEntries n room locks
      es.length ≤ locks.length
      ∧ (∀ k e, es[k]? = some e → e.lock = BitVec.ofNat 8 (n + k) ∧ locks[k]? = some e.entry)
      ∧ (es.flatMap fun e => entryBytes e.lock e.entry).length ≤ room
      ∧ ∀ next, locks[es.length]? = some next →
          room < (es.flatMap fun e => entryBytes e.lock e.entry).length
            + (entryBytes (BitVec.ofNat 8 (n + es.length)) next).length)

/-- The frame ends: a sender that takes part marks E exactly where it drove recessive and heard dominant, and a receiver
checks its copy and its apply queue (03 R55, R56, R60, R59). A receiver ends the frame where the length field of its own
copy says, at most after 96 payload bytes: what is heard beyond that is not the frame's, and a copy that is shorter, or
whose field is over 96, fails check 1 (05 R87, R88). That the levels come with the frame's end is log 32. -/
def Obligations.FrameEndSetsTheMarks : Prop :=
  (∀ (levels : List Level) (s : State), s.resetHeld = false →
    (∀ f, s.pli.line = .sending → s.pli.sent = some f → ∃ t, exec (.frameEnd levels) s = .next t
        ∧ t = { s with
            pli := { s.pli with
              line := .veto, part := s.pli.part && s.join.state.participant, markE := t.pli.markE, markF := false } }
        ∧ (t.pli.markE = true ↔ t.pli.part = true ∧
            ∃ n : Nat, (frameLevels f)[n]? = some Level.recessive ∧ levels[n]? = some Level.dominant))
    ∧ (s.pli.line = .receiving → ∃ t, exec (.frameEnd levels) s = .next t
        ∧ t = { s with
            pli := { s.pli with
              line := .veto, part := t.pli.part, copy := t.pli.copy, markE := t.pli.markE, markF := t.pli.markF } }
        ∧ t.pli.part = (s.pli.part && s.join.state.participant)
        ∧ t.pli.copy = receiveFrame s.replica.lockLimit levels
        ∧ (t.pli.markF = true ↔ t.pli.part = true ∧ 4 ≤ s.intake.queue.length)
        ∧ (t.pli.markE = true ↔ t.pli.part = true ∧
            ¬ ∃ f, t.pli.copy = some f ∧ f.sender = s.pli.winner
                ∧ (s.intake.valid = true → f.epoch = s.intake.epoch))))
  ∧ (∀ (limit : Nat) (bytes : List Byte) (beyond : List Level), 5 ≤ bytes.length →
      let n := (bytes.getD 4 0).toNat
      (n ≤ 96 → bytes.length = 7 + n →
        receiveFrame limit (levelsOfBytes bytes ++ beyond) = (crcChecked bytes).bind (decodeFrame limit))
      ∧ (96 < n → bytes.length = 103 → receiveFrame limit (levelsOfBytes bytes ++ beyond) = none)
      ∧ (bytes.length < 7 + min 96 n → receiveFrame limit (levelsOfBytes bytes) = none))

/-- A frame of another station ends its veto slot without a mark: the origin, the flag, the queue, the epoch and the
latch follow (03 R61, 04 R71 to R74, 09 R155). The line stays in VETO until the gap is heard (03 Table 3-1), or is
unobserved after a misplaced slot (log 10). -/
def Obligations.AcceptanceOfAnotherStationsFrame : Prop :=
  ∀ (inPlace : Bool) (s : State), s.resetHeld = false → s.pli.line = .veto → s.pli.sent = none →
    s.pli.markE = false → s.pli.markF = false →
    ∃ t, exec (.vetoSlotEnd false false inPlace) s = .next t
      ∧ SchedSettled s t
      ∧ t = { s with
          sched := t.sched
          pli := { s.pli with
            line := if inPlace then .vetoGap else .unobserved
            gap := false
            givenVeto := 0
            origin := match s.pli.copy with
              | some f => f.sender
              | none => s.pli.winner
            synced := s.pli.copy.isSome
            ownSlot := none, forfeited := false, part := false, copy := none }
          intake := { s.intake with
            queue := if s.pli.part then s.intake.queue ++ s.pli.copy.toList else s.intake.queue
            epoch :=
              if s.intake.valid then (if s.pli.part then s.intake.epoch + 1 else s.intake.epoch)
              else match s.pli.copy with
                | some f => f.epoch + 1
                | none => s.intake.epoch + 1 }
          join := { s.join with
            latch := s.join.latch || (s.pli.part && match s.pli.copy with
              | some f => f.senderState = .member || f.senderState = .leaving
              | none => false) } }

/-- The own frame is accepted at its sender: the item leaves its list, a lock frame's producer is told, the own-veto
count is 0 and the own-silence counter is loaded with P (03 R61, 06 R102, R103, 08 R139). A sender that takes no part
any more appends nothing and loads nothing; it hears the slot as an observer, and its line reference is cleared (03 R61,
R63, 04 R73, R74, 06 R103, R108). The Join Controller is told of a rescinded item that it was accepted (06 R102, R105);
that it holds the telling, and that the Monitor is told nothing of an EVICT, is log 43. After the slot the line waits for
the gap (03 Table 3-1), or is unobserved (log 10). -/
def Obligations.AcceptanceOfTheOwnFrame : Prop :=
  ∀ (inPlace : Bool) (s : State) (f : Frame), s.resetHeld = false → s.pli.line = .veto → s.pli.sent = some f →
    s.pli.markE = false → s.pli.markF = false →
    (s.pli.part = true →
      exec (.vetoSlotEnd false false inPlace) s
        = .next { s with
            pli := { s.pli with
              line := if inPlace then .vetoGap else .unobserved
              gap := false
              givenVeto := 0, ownVeto := 0, origin := f.sender, synced := true
              ownSlot := none, forfeited := false, part := false, sent := none, copy := none }
            intake := { s.intake with
              queue := s.intake.queue ++ [f]
              epoch := if s.intake.valid then s.intake.epoch + 1 else f.epoch + 1 }
            join := { s.join with
              latch := s.join.latch || (f.senderState = .member || f.senderState = .leaving)
              told := toldAtEnd s .accepted }
            monitor := { s.monitor with ownSilence := .running s.period }
            sched := match s.sched.onLine with
              | .item id => { s.sched with
                  onLine := .nothing, rescinded := false, held := none
                  control := s.sched.control.filter fun i => i.id ≠ id
                  locks := s.sched.locks.filter fun i => i.id ≠ id
                  retry := if s.sched.retry = some id then none else s.sched.retry }
              | _ => { s.sched with onLine := .nothing, rescinded := false, held := none }
            hand := { s.hand with
              notices := s.hand.notices ++ (match s.sched.onLine with
                | .item (.lock k o l) => [⟨k, o, l, .accepted⟩]
                | _ => []) } })
    ∧ (s.pli.part = false →
      ∃ t, exec (.vetoSlotEnd false false inPlace) s = .next t
        ∧ SchedSettled { s with sched := offLine s.sched } t
        ∧ t = { s with
            sched := t.sched
            pli := { s.pli with
              line := if inPlace then .vetoGap else .unobserved
              gap := false, givenVeto := 0, origin := f.sender, synced := true
              ownSlot := none, forfeited := false, part := false, sent := none, copy := none }
            intake := { s.intake with epoch := if s.intake.valid then s.intake.epoch else f.epoch + 1 } })

/-- A frame of another station is vetoed: only a counted veto that this station gave raises its given-veto count, and
at 8 it hands over a withdrawal (03 R62, R65, R66). After the slot the line waits for the gap (03 Table 3-1), or is
unobserved (log 10). -/
def Obligations.VetoOfAnotherStationsFrame : Prop :=
  ∀ (markE markF inPlace : Bool) (s : State), s.resetHeld = false → s.pli.line = .veto → s.pli.sent = none →
    (markE = true ∨ markF = true ∨ s.pli.markE = true ∨ s.pli.markF = true) →
    ∃ t, exec (.vetoSlotEnd markE markF inPlace) s = .next t
      ∧ SchedSettled s t
      ∧ t = { s with
          sched := t.sched
          pli := { s.pli with
            line := if inPlace then .vetoGap else .unobserved
            gap := false, givenVeto := t.pli.givenVeto
            ownSlot := none, forfeited := false, part := false, copy := none, markE := false, markF := false }
          hand := { s.hand with withdrawal := t.hand.withdrawal } }
      ∧ (¬ (s.pli.part = true ∧ s.pli.markE = true) →
          t.pli.givenVeto = s.pli.givenVeto ∧ t.hand.withdrawal = s.hand.withdrawal)
      ∧ (s.pli.part = true → s.pli.markE = true → s.pli.givenVeto.toNat + 1 < 8 →
          t.pli.givenVeto.toNat = s.pli.givenVeto.toNat + 1 ∧ t.hand.withdrawal = s.hand.withdrawal)
      ∧ (s.pli.part = true → s.pli.markE = true → s.pli.givenVeto.toNat + 1 = 8 → s.hand.withdrawal = none →
          t.hand.withdrawal = some .withdrawnRx)

/-- The own frame is vetoed at its sender: the item stays with the retry mark, or goes if rescinded, or changes to the
held kind; E raises the own-veto count, and at 16 a withdrawal is handed over (03 R62, R64, R66; 06 R98, R104). The
ALIVE of 03 R54 stands on no list, and its veto counts alike and marks nothing (06 R96). A sender that takes no part any
more counts nothing (03 R63, 06 R108). The Join Controller is told of a rescinded item that it was removed (06 R104,
R105); that it holds the telling, and that the Monitor is told nothing of an EVICT, is log 43. After the slot the line
waits for the gap (03 Table 3-1), or is unobserved (log 10). -/
def Obligations.VetoOfTheOwnFrame : Prop :=
  ∀ (markE markF inPlace : Bool) (s : State) (f : Frame), s.resetHeld = false → s.pli.line = .veto →
    s.pli.sent = some f → (markE = true ∨ markF = true ∨ s.pli.markE = true ∨ s.pli.markF = true) →
    let heardE : Prop := markE = true ∨ s.pli.markE = true
    let line (own : BitVec 4) : Pli := { s.pli with
      line := if inPlace then .vetoGap else .unobserved
      gap := false, ownVeto := own
      ownSlot := none, forfeited := false, part := false, sent := none, copy := none, markE := false, markF := false }
    ∃ t, exec (.vetoSlotEnd markE markF inPlace) s = .next t
      ∧ (∀ id, s.pli.part = true → s.sched.onLine = .item id →
          t = { s with
            sched := t.sched
            pli := line t.pli.ownVeto
            join := { s.join with told := toldAtEnd s .removed }
            hand := { s.hand with
              withdrawal := t.hand.withdrawal
              itemRemoved := s.hand.itemRemoved || (s.sched.rescinded && decide (id = .control .membership))
              notices := s.hand.notices ++ (match id with
                | .lock k o l => [⟨k, o, l, .vetoed s.sched.rescinded⟩]
                | .control _ => []) } }
          ∧ OwnVetoCounted s t heardE
          ∧ (s.sched.rescinded = false → s.sched.held = none →
              SchedSettled { s with sched := { offLine s.sched with retry := some id } } t)
          ∧ (∀ k, s.sched.rescinded = false → s.sched.held = some k →
              SchedSettled
                { s with
                  sched := { offLine s.sched with
                    retry := some id
                    control := s.sched.control.map fun i =>
                      if i.purpose = .membership then .membership k else i } } t)
          ∧ (s.sched.rescinded = true → SchedSettled { s with sched := itemGone (offLine s.sched) id } t))
      ∧ (s.pli.part = true → (∀ id, s.sched.onLine ≠ .item id) →
          t = { s with
            sched := t.sched, pli := line t.pli.ownVeto, hand := { s.hand with withdrawal := t.hand.withdrawal } }
          ∧ OwnVetoCounted s t heardE ∧ SchedSettled { s with sched := offLine s.sched } t)
      ∧ (s.pli.part = false →
          t = { s with sched := t.sched, pli := line s.pli.ownVeto }
          ∧ SchedSettled { s with sched := offLine s.sched } t)

/-! ### The Send Scheduler (06) -/

/-- The candidate: the item of the retry mark if it is ready, else the first ready control item, else the head of the
lock list; only a donor item can be unready (06 R101). A request queues an item at the tail where the place of its
purpose is empty (06 R98). A removal is answered removed, on the line with the rescind mark, or not present (06 R105).
-/
def Obligations.SchedulerChoosesAndRemovesByItsLists : Prop :=
  ∀ (c : Sched) (queueEmpty : Bool),
    let ready (id : ItemId) : Prop := id = .control .donor → queueEmpty = true
    (∀ id, c.retry = some id → c.holds id = true → ready id → c.candidate queueEmpty = some id)
    ∧ ((∀ id, c.retry = some id → ¬ (c.holds id = true ∧ ready id)) →
        (∀ before i after, c.control = before ++ i :: after → ready i.id → (∀ j ∈ before, ¬ ready j.id) →
          c.candidate queueEmpty = some i.id)
        ∧ ((∀ i ∈ c.control, ¬ ready i.id) → c.candidate queueEmpty = c.locks.head?.map LockItem.id))
    ∧ (∀ i : ControlItem,
        ((∃ j ∈ c.control, j.purpose = i.purpose) → c.queueControl i = c)
        ∧ ((∀ j ∈ c.control, j.purpose ≠ i.purpose) → c.queueControl i = { c with control := c.control ++ [i] }))
    ∧ ∀ id : ItemId,
        (c.onLine = .item id → c.remove id = ({ c with rescinded := true }, .onTheLine))
        ∧ (c.onLine ≠ .item id → c.holds id = true → c.remove id = (itemGone c id, .removed))
        ∧ (c.onLine ≠ .item id → c.holds id = false → c.remove id = (c, .notPresent))

/-! ### Applications (01, 02, 04) -/

/-- The head waiter of a queue may be granted when the entry permits its mode (01 R9), and a new claim where besides
no one waits (01 R8). A regrant grants a front part of the queue, in queue order, and stops at the first waiter that
may not be granted: one X alone, or S waiters one after another while fewer than 8 hold (01 R10). -/
def Obligations.RegrantGrantsFromTheHead : Prop :=
  (∀ (st : EntryState) (holders : List Claimant),
      (permits st holders .x = true ↔ st = .free)
      ∧ (permits st holders .s = true ↔ st = .free ∨ (st = .shared ∧ holders.length < 8))
      ∧ ∀ (ws : List Waiter) (m : Mode),
          (⟨st, holders, ws⟩ : LockEntry).grantable m = true ↔ ws = [] ∧ permits st holders m = true)
  ∧ (∀ e : LockEntry,
      let g := e.regrant
      e.waiters = g.2 ++ g.1.waiters
      ∧ (g.2 = [] → g.1 = e)
      ∧ (∀ w rest, g.2 = w :: rest → w.mode = .x →
          e.state = .free ∧ rest = [] ∧ g.1.state = .excl ∧ g.1.holders = insertHolder w.claimant e.holders)
      ∧ (∀ w rest, g.2 = w :: rest → w.mode = .s →
          (e.state = .free ∨ e.state = .shared) ∧ g.1.state = .shared
            ∧ g.1.holders = (g.2.map Waiter.claimant).foldl (fun hs c => insertHolder c hs) e.holders
            ∧ (∀ v ∈ g.2, v.mode = .s)
            ∧ ∀ before v after, g.2 = before ++ v :: after → before ≠ [] ∨ e.state = .shared →
                ((before.map Waiter.claimant).foldl (fun hs c => insertHolder c hs) e.holders).length < 8)
      ∧ ∀ w rest, g.1.waiters = w :: rest → permits g.1.state g.1.holders w.mode = false)

/-- A CLAIM whose outcome the entry alone decides: from a MEMBER record at a known entry DUPLICATE, GRANTED, BUSY or
QUEUE_FULL; from another record, or at an UNKNOWN entry, none (01 R4, R8, R15, R16, R17). The outcome waits in a queue:
log 2. -/
def Obligations.ApplyClaimDecidedByTheEntry : Prop :=
  (∀ (s : State) (f : Frame) (rest : List Frame) (o : Owner) (l : Byte), Takes s f rest →
      s.replica.fabric ≠ none → s.replica.members[f.sender].state ≠ .absent →
      (s.replica.entry l).state = .unknown ∨ s.replica.members[f.sender].state ≠ .member →
      ∀ m w, f.body = .claim o l m w →
        ∃ t, exec .applyClaim s = .next t ∧ AppliedAs s t f rest s.replica none [] [])
  ∧ (∀ (s : State) (f : Frame) (rest : List Frame) (o : Owner) (l : Byte) (m : Mode) (w : Bool),
      Takes s f rest → f.body = .claim o l m w → s.replica.fabric ≠ none →
      s.replica.members[f.sender].state = .member → (s.replica.entry l).state ≠ .unknown →
      let e := s.replica.entry l
      let c : Claimant := ⟨f.sender, o⟩
      let result (r : Replica) (x : ClaimOutcome) : Prop :=
        ∃ t, exec .applyClaim s = .next t ∧ AppliedAs s t f rest r none (atSender s f (.claim o l x)) []
      ((c ∈ e.holders ∨ c ∈ e.waiters.map Waiter.claimant) → result s.replica .duplicate)
      ∧ (c ∉ e.holders → c ∉ e.waiters.map Waiter.claimant →
          (m = .x → e.waiters = [] → e.state = .free →
            result (s.replica.setEntry l { e with state := .excl, holders := insertHolder c e.holders }) .granted)
          ∧ (m = .s → e.waiters = [] → (e.state = .free ∨ (e.state = .shared ∧ e.holders.length < 8)) →
            result (s.replica.setEntry l { e with state := .shared, holders := insertHolder c e.holders }) .granted)
          ∧ (e.grantable m = false → w = false → result s.replica .busy)
          ∧ (e.grantable m = false → w = true → 16 ≤ e.waiters.length → result s.replica .queueFull)))

/-- A CLAIM that reaches the pool test: cursors of loading joiners above its lock fall to it everywhere, and the pool
and the quota decide; at the loading joiner itself the claim is skipped (01 R17, R18). The pool's and the stations'
counts are sums over the entries (01 R7; log 16). The outcome waits in a queue: log 2. -/
def Obligations.ApplyClaimAtThePoolTest : Prop :=
  ∀ (s : State) (f : Frame) (rest : List Frame) (o : Owner) (l : Byte) (m : Mode),
    Takes s f rest → f.body = .claim o l m true → s.replica.fabric ≠ none →
    s.replica.members[f.sender].state = .member → (s.replica.entry l).state ≠ .unknown →
    (⟨f.sender, o⟩ : Claimant) ∉ (s.replica.entry l).holders →
    (⟨f.sender, o⟩ : Claimant) ∉ (s.replica.entry l).waiters.map Waiter.claimant →
    (s.replica.entry l).grantable m = false → (s.replica.entry l).waiters.length < 16 →
    ∃ r : Replica, r.joinList = s.replica.joinList ∧ r.fabric = s.replica.fabric
      ∧ (∀ v : Station, r.members[v].count = s.replica.members[v].count
          ∧ (∀ c, s.replica.members[v].state = .joining true c →
              r.members[v].state = .joining true (min c l.toNat))
          ∧ ((∀ c, s.replica.members[v].state ≠ .joining true c) → r.members[v].state = s.replica.members[v].state))
      ∧ ((∃ c, s.replica.members[s.straps.station].state = .joining true c ∧ l.toNat < c) →
          r.locks.length = s.replica.locks.length
          ∧ (∀ n, n < l.toNat → r.locks[n]? = s.replica.locks[n]?)
          ∧ (∀ n, l.toNat ≤ n → n < s.replica.locks.length → r.locks[n]? = some ⟨.unknown, [], []⟩)
          ∧ ∃ t, exec .applyClaim s = .next t ∧ AppliedAs s t f rest r none [] [])
      ∧ ((¬ ∃ c, s.replica.members[s.straps.station].state = .joining true c ∧ l.toNat < c) →
          r.locks = s.replica.locks
          ∧ ∃ t, exec .applyClaim s = .next t
            ∧ (128 ≤ s.replica.poolUse →
                AppliedAs s t f rest r none (atSender s f (.claim o l .poolFull)) [])
            ∧ (s.replica.poolUse < 128 → 16 ≤ s.replica.stationUse f.sender →
                AppliedAs s t f rest r none (atSender s f (.claim o l .quota)) [])
            ∧ (s.replica.poolUse < 128 → s.replica.stationUse f.sender < 16 →
                AppliedAs s t f rest
                  (r.setEntry l { s.replica.entry l with
                    waiters := (s.replica.entry l).waiters ++ [⟨⟨f.sender, o⟩, m⟩] })
                  none (atSender s f (.claim o l .queued)) []))

/-- A FREE at a known entry: its claimant leaves the holders and the regrant runs, or the outcome is NOT_HOLDER (01
R19). A WITHDRAW: its waiter leaves and the regrant runs, or the outcome is IS_HOLDER or NOT_WAITING (01 R20). At an
UNKNOWN entry either is skipped (01 R4). Outcome and grants wait in a queue: log 2. -/
def Obligations.ApplyFreeAndWithdrawRegrant : Prop :=
  (∀ (s : State) (f : Frame) (rest : List Frame) (o : Owner) (l : Byte),
      Takes s f rest → f.body = .free o l → s.replica.fabric ≠ none →
      s.replica.members[f.sender].state ≠ .absent → (s.replica.entry l).state ≠ .unknown →
      let e := s.replica.entry l
      let c : Claimant := ⟨f.sender, o⟩
      let hs := e.holders.filter fun h => h ≠ c
      let g := ({ e with state := if hs = [] then .free else e.state, holders := hs } : LockEntry).regrant
      ∃ t, exec .applyFree s = .next t
        ∧ (c ∈ e.holders →
            AppliedAs s t f rest (s.replica.setEntry l g.1) none
              (atSender s f (.free o l .released) ++ ownGrants s l g.2) [])
        ∧ (c ∉ e.holders → AppliedAs s t f rest s.replica none (atSender s f (.free o l .notHolder)) []))
  ∧ (∀ (s : State) (f : Frame) (rest : List Frame) (o : Owner) (l : Byte),
      Takes s f rest → f.body = .withdraw o l → s.replica.fabric ≠ none →
      s.replica.members[f.sender].state ≠ .absent → (s.replica.entry l).state ≠ .unknown →
      let e := s.replica.entry l
      let c : Claimant := ⟨f.sender, o⟩
      let g := ({ e with waiters := e.waiters.filter fun w => w.claimant ≠ c } : LockEntry).regrant
      ∃ t, exec .applyWithdraw s = .next t
        ∧ (c ∈ e.waiters.map Waiter.claimant →
            AppliedAs s t f rest (s.replica.setEntry l g.1) none
              (atSender s f (.withdraw o l .withdrawn) ++ ownGrants s l g.2) [])
        ∧ (c ∉ e.waiters.map Waiter.claimant → c ∈ e.holders →
            AppliedAs s t f rest s.replica none (atSender s f (.withdraw o l .isHolder)) [])
        ∧ (c ∉ e.waiters.map Waiter.claimant → c ∉ e.holders →
            AppliedAs s t f rest s.replica none (atSender s f (.withdraw o l .notWaiting)) []))
  ∧ (∀ (s : State) (f : Frame) (rest : List Frame) (o : Owner) (l : Byte), Takes s f rest →
      s.replica.fabric ≠ none → s.replica.members[f.sender].state ≠ .absent →
      (s.replica.entry l).state = .unknown → (f.body = .free o l ∨ f.body = .withdraw o l) →
        ∃ t, exec (applyCommand f.body.kind) s = .next t ∧ AppliedAs s t f rest s.replica none [] [])

/-- The removal of a station: at every lock its waiters and its holders leave, a known entry left without holders is
FREE, and one regrant follows; an UNKNOWN entry is skipped (01 R21, R22, R24). The grants that arise are those of the
regrants and no others, in ascending lock order and at one lock in queue order (01 R14, R21). -/
def Obligations.RemovalOfAStationAtEveryLock : Prop :=
  ∀ (r : Replica) (s : Station),
    let q := r.removeStation s
    q.1.locks.length = r.locks.length ∧ q.1.members = r.members ∧ q.1.joinList = r.joinList
    ∧ q.1.fabric = r.fabric
    ∧ (∀ (n : Nat) (e : LockEntry), r.locks[n]? = some e →
        (e.state = .unknown → q.1.locks[n]? = some e)
        ∧ (e.state ≠ .unknown →
            let hs := e.holders.filter fun h => h.station ≠ s
            let left : LockEntry :=
              { state := if hs = [] then .free else e.state, holders := hs
                waiters := e.waiters.filter fun w => w.claimant.station ≠ s }
            q.1.locks[n]? = some left.regrant.1
            ∧ ∀ w ∈ left.regrant.2, (⟨BitVec.ofNat 8 n, w⟩ : Grant) ∈ q.2))
    ∧ q.2 = removalGrants s 0 r.locks

/-- A JOIN, or a FOUND, where a fabric record is held: the sender joins the list, restarts at its place, or is refused
by the first field of the digest that differs; a MEMBER is removed first; at the sender itself every lock entry
becomes UNKNOWN (02 R35, R38 to R40). What is handed over waits in queues: log 2. -/
def Obligations.ApplyJoinOrFoundAtAFabric : Prop :=
  ∀ (s : State) (f : Frame) (rest : List Frame) (d : Digest) (fr : FabricRecord),
    Takes s f rest → (f.body = .join d ∨ f.body = .found d) → s.replica.fabric = some fr →
    let j := f.sender
    let st : RecordState :=
      if d.level ≠ fr.digest.level then .refuseDue .protocol
      else if d.space ≠ fr.digest.space then .refuseDue .lockSpace
      else if d.period ≠ fr.digest.period then .refuseDue .period
      else if d.limit ≠ fr.digest.limit then .refuseDue .silenceLimit
      else .joining false 0
    let r := s.replica
    let atJ (locks : List LockEntry) : List LockEntry :=
      if j = s.straps.station then locks.map fun _ => ⟨.unknown, [], []⟩ else locks
    let handed : List JoinHandOver :=
      if f.body = .join d then (if j = s.straps.station then [.ownJoin] else [])
      else if j = s.straps.station then [.ownFound false] else [.otherFound]
    ∃ t, exec (applyCommand f.body.kind) s = .next t
      ∧ (r.members[j].state = .absent → r.joinList.length < 15 →
          AppliedAs s t f rest
            { r with
              locks := atJ r.locks
              members := r.members.set j.val { r.members[j] with state := st }, joinList := r.joinList ++ [j] }
            none [] handed)
      ∧ (r.members[j].state = .absent → 15 ≤ r.joinList.length →
          AppliedAs s t f rest { r with locks := atJ r.locks } none [] handed)
      ∧ ((∃ h c, r.members[j].state = .joining h c) ∨ (∃ x, r.members[j].state = .refuseDue x) →
          AppliedAs s t f rest
            { r with locks := atJ r.locks, members := r.members.set j.val { r.members[j] with state := st } }
            none [] handed)
      ∧ (r.members[j].state = .member → j ∉ r.joinList → r.joinList.length < 15 →
          AppliedAs s t f rest
            { r with
              locks := atJ (r.removeStation j).1.locks
              members := r.members.set j.val ⟨st, 0⟩, joinList := r.joinList ++ [j] }
            none (grantNotices s.straps.station (r.removeStation j).2) handed)
      ∧ (r.members[j].state = .member → j ∉ r.joinList → 15 ≤ r.joinList.length →
          AppliedAs s t f rest
            { r with
              locks := atJ (r.removeStation j).1.locks
              members := r.members.set j.val ⟨.absent, 0⟩ }
            none (grantNotices s.straps.station (r.removeStation j).2) handed)

/-- At a station without a fabric record: an own JOIN is handed to the Join Controller, another station's JOIN changes
nothing, another's FOUND is handed over, and the own FOUND creates the fabric exactly while the latch is clear (02 R34,
04 R75, R77, 09 R162, 01 R25). What is handed over waits in queues (log 2); when the own FOUND is taken is log 6. -/
def Obligations.ApplyJoinAndFoundWithoutAFabric : Prop :=
  ∀ (s : State) (f : Frame) (rest : List Frame) (d : Digest),
    Takes s f rest → s.replica.fabric = none →
    (f.body = .join d → f.sender = s.straps.station →
      ∃ t, exec .applyJoin s = .next t ∧ AppliedAs s t f rest s.replica none [] [.ownJoin])
    ∧ (f.body = .join d → f.sender ≠ s.straps.station → ∃ t, exec .applyJoin s = .next t ∧ Discarded s t rest)
    ∧ (f.body = .found d → f.sender ≠ s.straps.station →
        ∃ t, exec .applyFound s = .next t ∧ AppliedAs s t f rest s.replica none [] [.otherFound])
    ∧ (f.body = .found d → f.sender = s.straps.station → s.join.latch = true →
        ∃ t, exec .applyFound s = .next t ∧ AppliedAs s t f rest s.replica none [] [.ownFound false])
    ∧ (f.body = .found d → f.sender = s.straps.station → s.join.latch = false →
        (s.join.state = .founding ∨ s.join.state = .joining .sendJoin) →
        ∃ t r, exec .applyFound s = .next t
          ∧ AppliedAs s t f rest r (some (BitVec.ofNat 16 (1 + rest.length))) [] [.ownFound true]
          ∧ r.locks = List.replicate (lockSpace s.straps) ⟨.free, [], []⟩ ∧ r.joinList = []
          ∧ r.fabric = some ⟨s.ownDigest, s.straps.station⟩
          ∧ ∀ v : Station, r.members[v] = if v = s.straps.station then ⟨.member, 0⟩ else ⟨.absent, 0⟩)

/-- A LEAVE removes its sender, and an EVICT whose carried count is the victim's removes the victim; any other EVICT
changes nothing (02 R45, R46). What is handed over waits in queues: log 2. -/
def Obligations.ApplyLeaveAndEvictRemoveAStation : Prop :=
  ∀ (s : State) (f : Frame) (rest : List Frame), Takes s f rest → s.replica.fabric ≠ none →
    s.replica.members[f.sender].state ≠ .absent →
    let r := s.replica
    let without (v : Station) : Replica :=
      { (r.removeStation v).1 with
        members := r.members.set v.val ⟨.absent, 0⟩, joinList := r.joinList.filter fun u => u ≠ v }
    let grants (v : Station) : List OpsHandOver := grantNotices s.straps.station (r.removeStation v).2
    (f.body = .leave → ∃ t, exec .applyLeave s = .next t
      ∧ AppliedAs s t f rest (without f.sender) none (grants f.sender)
          (if f.sender = s.straps.station then [.ownLeave] else []))
    ∧ ∀ v c, f.body = .evict v c → ∃ t, exec .applyEvict s = .next t
      ∧ (v ≠ f.sender → r.members[v].state ≠ .absent → r.members[v].count = c →
          AppliedAs s t f rest (without v) none (grants v) (if v = s.straps.station then [.evictedSelf] else []))
      ∧ ((v = f.sender ∨ r.members[v].state = .absent ∨ r.members[v].count ≠ c) →
          AppliedAs s t f rest r none [] [])

/-- A REFUSE from a MEMBER ends a refusal due at every station that holds a fabric record; one that is taken and names
this station is handed to the Join Controller with its reason (02 R37, R41, R47). Without a fabric record another
station's REFUSE is taken where it names this station and its sender state is MEMBER, and discarded otherwise (02 R41,
04 R77). What is handed over waits in a queue: log 2. -/
def Obligations.ApplyRefuseEndsARefusalDue : Prop :=
  ∀ (s : State) (f : Frame) (rest : List Frame) (j : Station) (reason : RefusalReason),
    Takes s f rest → f.body = .refuse j reason →
    let r := s.replica
    (r.fabric ≠ none → r.members[f.sender].state = .member →
      ∃ t, exec .applyRefuse s = .next t
        ∧ ((∃ x, r.members[j].state = .refuseDue x) →
            AppliedAs s t f rest
              { r with members := r.members.set j.val ⟨.absent, 0⟩, joinList := r.joinList.filter fun u => u ≠ j }
              none [] (if j = s.straps.station then [.refused reason] else []))
        ∧ ((∀ x, r.members[j].state ≠ .refuseDue x) → AppliedAs s t f rest r none [] []))
    ∧ (r.fabric = none → f.sender ≠ s.straps.station →
        ∃ t, exec .applyRefuse s = .next t
          ∧ (j = s.straps.station → f.senderState = .member → AppliedAs s t f rest r none [] [.refused reason])
          ∧ ((j ≠ s.straps.station ∨ f.senderState ≠ .member) → Discarded s t rest))

/-- A SNAPHEAD sets the head joiner's head-sent flag; at the joiner itself it installs the replica with every lock
entry UNKNOWN, and sets the epoch (02 R42, R43, 04 R76, 01 R26). A SNAPDATA that starts at the head joiner's cursor
advances it by its entries, to MEMBER at L; the joiner itself installs the entries first, in lock order (02 R44, 01
R26). What is handed over waits in queues: log 2. -/
def Obligations.ApplySnapshotFramesServeTheJoiner : Prop :=
  (∀ (s : State) (f : Frame) (rest : List Frame) (h : SnapHead), Takes s f rest → f.body = .snaphead h →
      let r := s.replica
      let epoch : Word16 := f.epoch + 1 + BitVec.ofNat 16 rest.length
      (r.fabric ≠ none → r.members[f.sender].state = .member →
        ∃ t, exec .applySnaphead s = .next t
          ∧ (∀ c tail, h.joiner ≠ s.straps.station → r.joinList = h.joiner :: tail →
              r.members[h.joiner].state = .joining false c →
              AppliedAs s t f rest
                { r with members := r.members.set h.joiner.val { r.members[h.joiner] with state := .joining true c } }
                none [] [])
          ∧ ((r.joinList.head? ≠ some h.joiner ∨ ∀ c, r.members[h.joiner].state ≠ .joining false c) →
              AppliedAs s t f rest r none [] []))
      ∧ (r.fabric = none → f.sender ≠ s.straps.station →
          ¬ (h.joiner = s.straps.station ∧ f.senderState = .member ∧ h.members[f.sender].state = .member
              ∧ h.joinList.head? = some h.joiner ∧ ∃ c, h.members[h.joiner].state = .joining false c) →
          ∃ t, exec .applySnaphead s = .next t ∧ Discarded s t rest)
      ∧ ∀ c, h.joiner = s.straps.station → h.members[h.joiner].state = .joining false c →
          ((r.fabric = none ∧ f.sender ≠ s.straps.station ∧ f.senderState = .member
              ∧ h.members[f.sender].state = .member ∧ h.joinList.head? = some h.joiner)
            ∨ (r.fabric ≠ none ∧ r.members[f.sender].state = .member ∧ r.joinList.head? = some h.joiner
              ∧ ∃ c', r.members[h.joiner].state = .joining false c')) →
          ∃ t, exec .applySnaphead s = .next t
            ∧ AppliedAs s t f rest
                { locks := r.locks.map fun _ => ⟨.unknown, [], []⟩
                  members := h.members.set h.joiner.val { h.members[h.joiner] with state := .joining true c }
                  joinList := h.joinList
                  fabric := some ⟨h.digest, h.founder⟩ }
                (some epoch) [] [.ownSnaphead])
  ∧ (∀ (s : State) (f : Frame) (rest : List Frame) (stations : List Station) (j : Station) (start : Byte)
      (es : List SnapEntry) (fr : FabricRecord), Takes s f rest → f.body = .snapdata j start es →
      s.replica.fabric = some fr → s.replica.members[f.sender].state = .member →
      let r := s.replica
      let upTo := start.toNat + es.length
      ∃ t, exec .applySnapdata s = .next t
        ∧ (r.joinList = j :: stations → r.members[j].state = .joining true start.toNat →
            let locks := if j = s.straps.station then
                es.foldl (fun ls e => ls.set e.lock.toNat e.entry) r.locks
              else r.locks
            let own (reached : Bool) : List JoinHandOver :=
              if j = s.straps.station then [.ownSnapdata reached] else []
            (upTo = 64 * fr.digest.space.toNat →
              AppliedAs s t f rest
                { r with
                  locks := locks
                  members := r.members.set j.val { r.members[j] with state := .member }
                  joinList := (j :: stations).filter fun u => u ≠ j }
                none [] (own true))
            ∧ (upTo ≠ 64 * fr.digest.space.toNat →
              AppliedAs s t f rest
                { r with
                  locks := locks
                  members := r.members.set j.val { r.members[j] with state := .joining true upTo } }
                none [] (own false)))
        ∧ ((r.joinList.head? ≠ some j ∨ r.members[j].state ≠ .joining true start.toNat) →
            AppliedAs s t f rest r none [] []))

/-- An ALIVE that passes the screen has no effect beyond its counting step, which adds one to the sender's frame count
unless its record is ABSENT (04 R77, 02 R31). The screen: at a fabric, a frame from an ABSENT sender that is neither
JOIN nor FOUND is discarded, and a donor frame from a sender that is not MEMBER is ignored; without a fabric record,
another station's frame of a kind that means nothing there is discarded, and an own frame is handed on (04 R77, 02
R37). -/
def Obligations.ScreenAndCountOfApplications : Prop :=
  ((∀ (s : State) (f : Frame) (rest : List Frame), Takes s f rest → f.body = .alive → s.replica.fabric ≠ none →
      s.replica.members[f.sender].state ≠ .absent →
      ∃ t, exec .applyAlive s = .next t ∧ AppliedAs s t f rest s.replica none [] [])
    ∧ ∀ (r : Replica) (v w : Station),
        (r.members[v].state ≠ .absent →
          (r.countFrame v).members[v] = { r.members[v] with count := r.members[v].count + 1 })
        ∧ (r.members[v].state = .absent → r.countFrame v = r)
        ∧ (w ≠ v → (r.countFrame v).members[w] = r.members[w]))
  ∧ (∀ (s : State) (f : Frame) (rest : List Frame), Takes s f rest → f.body.kind ≠ .join → f.body.kind ≠ .found →
      (((s.replica.fabric ≠ none ∧ s.replica.members[f.sender].state = .absent)
          ∨ (s.replica.fabric = none ∧ f.sender ≠ s.straps.station
              ∧ f.body.kind ≠ .refuse ∧ f.body.kind ≠ .snaphead)) →
        ∃ t, exec (applyCommand f.body.kind) s = .next t ∧ Discarded s t rest)
      ∧ (s.replica.fabric ≠ none →
          ((∃ h c, s.replica.members[f.sender].state = .joining h c)
            ∨ ∃ x, s.replica.members[f.sender].state = .refuseDue x) →
          (f.body.kind = .refuse ∨ f.body.kind = .snaphead ∨ f.body.kind = .snapdata) →
          ∃ t, exec (applyCommand f.body.kind) s = .next t ∧ AppliedAs s t f rest s.replica none [] [])
      ∧ (s.replica.fabric = none → f.sender = s.straps.station →
          ∃ t, exec (applyCommand f.body.kind) s = .next t
            ∧ AppliedAs s t f rest s.replica none [] (if f.body.kind = .leave then [.ownLeave] else [])))

/-! ### What the Operations Unit takes (07) -/

/-- The notices that a lock frame is on the line or was accepted move its operation's phase, and no other; a veto
returns it to OUTBOUND where its item stayed and no CANCEL waits, and a WITHDRAW's moves none (07 R113). With a CANCEL
attached the target replies CANCELLED and the CANCEL DONE directly after it, and the CLAIM has left the lock list (07
R128). The notices wait in a queue (log 2), and move what they find there (log 25, log 38). -/
def Obligations.NoticesMoveThePhase : Prop :=
  (∀ (s : State) (k : LockKind) (o : Owner) (l : Byte) (rest : List Notice), s.resetHeld = false →
      (s.hand.notices = ⟨k, o, l, .onLine⟩ :: rest →
        exec .lockFrameOnLine s
          = .next { s with
              hand := { s.hand with notices := rest }
              ops := { s.ops with
                live := s.ops.live.map (phaseMoved k o l .outbound .onLine .outbound .onLine) } })
      ∧ (s.hand.notices = ⟨k, o, l, .accepted⟩ :: rest →
        exec .lockFrameAccepted s
          = .next { s with
              hand := { s.hand with notices := rest }
              ops := { s.ops with
                live := s.ops.live.map (phaseMoved k o l .onLine .applyWait .onLine .applyWait) } }))
  ∧ (∀ (s : State) (k : LockKind) (o : Owner) (l : Byte) (removed : Bool) (rest : List Notice), s.resetHeld = false →
      s.hand.notices = ⟨k, o, l, .vetoed removed⟩ :: rest →
      (k = .claim → removed = false ∧
        ∀ a, s.ops.acquire o l = some a → a.attached = false ∨ a.phase ≠ .onLine) →
      ∃ t, exec .lockFrameVetoed s = .next t ∧ SchedSettled s t
        ∧ t = { s with
            hand := { s.hand with notices := rest }
            ops := { s.ops with
              live := s.ops.live.map (phaseMoved k o l .onLine .outbound .onLine .outbound) }
            sched := t.sched })
  ∧ (∀ (s : State) (a : Acquire) (tag ct : Byte) (others : List Operation) (rest : List Notice) (removed : Bool),
      s.resetHeld = false → s.hand.notices = ⟨.claim, a.owner, a.lock, .vetoed removed⟩ :: rest →
      AcquireLives s.ops.live tag a (some ct) others → (∀ op ∈ others, op.isAcquire a.owner a.lock = false) →
      a.phase = .onLine → s.sched.onLine ≠ .item (.lock .claim a.owner a.lock) →
      (removed = false → s.sched.holds (.lock .claim a.owner a.lock) = true) →
      ∃ t, exec .lockFrameVetoed s = .next t
        ∧ t = { s with
            hand := { s.hand with notices := rest }
            ops := { s.ops with live := others }
            port := { s.port with replies := s.port.replies ++ pairReplies tag .cancelled (some ct) .done }
            sched := t.sched }
        ∧ (removed = true → SchedSettled s t)
        ∧ (removed = false → SchedSettled { s with sched := itemGone s.sched (.lock .claim a.owner a.lock) } t))

/-- The outcome of an own CLAIM: QUEUED parks the ACQUIRE with its wait limit, any other outcome is its reply, and
GRANTED makes a HELD record (07 R118, R122, Table 7-3). With a CANCEL attached, QUEUED starts its withdrawal without a
timer, and any other outcome is the ACQUIRE's reply with TOO_LATE directly after it (07 R129). That an outcome waits
until it is taken is log 2. -/
def Obligations.ClaimOutcomeDecidesTheAcquire : Prop :=
  (∀ (s : State) (a : Acquire) (tag : Byte) (others : List Operation) (x : ClaimOutcome) (rest : List OpsHandOver),
      s.resetHeld = false → s.hand.ops = .claim a.owner a.lock x :: rest →
      (∀ n ∈ s.hand.notices, ¬ (n.kind = .claim ∧ n.owner = a.owner ∧ n.lock = a.lock)) →
      a.phase = .applyWait → a.attached = false →
      (∀ live', x = .queued →
        AcquireBecomes s.ops.live live' a
          { a with phase := .queued (if a.limit = 0 then .stopped else .running a.limit.toNat) } →
        exec .claimOutcome s
          = .next { s with hand := { s.hand with ops := rest }, ops := { s.ops with live := live' } })
      ∧ ∀ code, (x, code) ∈ [(.granted, ResultCode.granted), (.busy, .busy), (.queueFull, .queueFull),
            (.poolFull, .poolFull), (.quota, .quota), (.duplicate, .duplicate)] →
          AcquireLives s.ops.live tag a none others →
          exec .claimOutcome s
            = .next { s with
                hand := { s.hand with ops := rest }
                ops :=
                  { live := others
                    holds := if x = .granted then withHold s.ops.holds a.lock a.owner a.mode else s.ops.holds }
                port := { s.port with replies := s.port.replies ++ [⟨tag, .acquire, code, []⟩] } })
  ∧ (∀ (s : State) (a : Acquire) (tag ct : Byte) (others : List Operation) (x : ClaimOutcome) (rest : List OpsHandOver),
      s.resetHeld = false → s.hand.ops = .claim a.owner a.lock x :: rest →
      (∀ n ∈ s.hand.notices, ¬ (n.kind = .claim ∧ n.owner = a.owner ∧ n.lock = a.lock)) →
      a.phase = .applyWait → a.attached = true →
      (∀ live', x = .queued → AcquireBecomes s.ops.live live' a { a with phase := .withdrawing .cancel } →
        exec .claimOutcome s
          = .next { s with
              hand := { s.hand with ops := rest }
              ops := { s.ops with live := live' }
              sched := { s.sched with locks := s.sched.locks ++ [.withdraw a.owner a.lock] } })
      ∧ ∀ code, (x, code) ∈ [(.granted, ResultCode.granted), (.busy, .busy), (.queueFull, .queueFull),
            (.poolFull, .poolFull), (.quota, .quota), (.duplicate, .duplicate)] →
          AcquireLives s.ops.live tag a (some ct) others →
          exec .claimOutcome s
            = .next { s with
                hand := { s.hand with ops := rest }
                ops :=
                  { live := others
                    holds := if x = .granted then withHold s.ops.holds a.lock a.owner a.mode else s.ops.holds }
                port := { s.port with replies := s.port.replies ++ pairReplies tag code (some ct) .tooLate } })

/-- The outcome of an own FREE: the RELEASING record goes, and the RELEASE replies RELEASED or NOT_HOLDER (07 R121).
The outcome of an own WITHDRAW decides the WITHDRAWING ACQUIRE by its cause; with no such ACQUIRE it is discarded (07
R125, Table 7-4, R130). That an outcome waits until it is taken is log 2. -/
def Obligations.FreeAndWithdrawOutcomesEndOperations : Prop :=
  (∀ (s : State) (o : Owner) (l : Byte) (x : FreeOutcome) (rest : List OpsHandOver) (before after : List Operation)
      (tag : Byte), s.resetHeld = false → s.hand.ops = .free o l x :: rest →
      (∀ n ∈ s.hand.notices, ¬ (n.kind = .free ∧ n.owner = o ∧ n.lock = l)) →
      s.ops.live = before ++ ⟨tag, .release o l .applyWait⟩ :: after →
      (∀ op ∈ before, op.body ≠ .release o l .applyWait) →
      exec .freeOutcome s
        = .next { s with
            hand := { s.hand with ops := rest }
            ops :=
              { live := before ++ after
                holds := s.ops.holds.filter fun h => !(h.owner = o && h.lock = l && h.releasing) }
            port := { s.port with
              replies := s.port.replies ++ [⟨tag, .release,
                (match x with
                  | .released => .released
                  | .notHolder => .notHolder), []⟩] } })
  ∧ (∀ (s : State) (o : Owner) (l : Byte) (x : WithdrawOutcome) (rest : List OpsHandOver), s.resetHeld = false →
      s.hand.ops = .withdraw o l x :: rest →
      (∀ n ∈ s.hand.notices, ¬ (n.kind = .withdraw ∧ n.owner = o ∧ n.lock = l)) →
      (∀ (a : Acquire) (cause : WithdrawCause) (tag : Byte) (cancel : Option Byte) (others : List Operation),
        a.owner = o → a.lock = l → a.phase = .withdrawing cause → AcquireLives s.ops.live tag a cancel others →
        exec .withdrawOutcome s
          = .next { s with
              hand := { s.hand with ops := rest }
              ops :=
                { live := others
                  holds := if x = .isHolder then withHold s.ops.holds l o a.mode else s.ops.holds }
              port := { s.port with
                replies := s.port.replies ++
                  (match x, cause with
                    | .isHolder, _ => pairReplies tag .granted cancel .tooLate
                    | _, .timer => pairReplies tag .timeout cancel .tooLate
                    | _, .cancel => pairReplies tag .cancelled cancel .done) } })
      ∧ ((∀ a cause, s.ops.acquire o l = some a → a.phase ≠ .withdrawing cause) →
          exec .withdrawOutcome s = .next { s with hand := { s.hand with ops := rest } }))

/-- A grant notice makes a HELD record; an ACQUIRE in QUEUED or WITHDRAWING replies GRANTED, its CANCEL TOO_LATE, and a
stale WITHDRAW not on the line leaves the lock list (07 R119). -/
def Obligations.GrantNoticeGrantsTheAcquire : Prop :=
  ∀ (s : State) (o : Owner) (l : Byte) (m : Mode) (rest : List OpsHandOver), s.resetHeld = false →
    s.hand.ops = .grant o l m :: rest →
    (∀ (a : Acquire) (tag : Byte) (cancel : Option Byte) (others : List Operation),
      a.owner = o → a.lock = l → AcquireLives s.ops.live tag a cancel others →
      ((∃ r, a.phase = .queued r) ∨ ∃ cause, a.phase = .withdrawing cause) →
      ∃ t, exec .grantNotice s = .next t
        ∧ t = { s with
            hand := { s.hand with ops := rest }
            ops := { live := others, holds := withHold s.ops.holds l o m }
            port := { s.port with replies := s.port.replies ++ pairReplies tag .granted cancel .tooLate }
            sched := t.sched }
        ∧ ((∃ r, a.phase = .queued r) → SchedSettled s t)
        ∧ ((∃ cause, a.phase = .withdrawing cause) → s.sched.onLine = .item (.lock .withdraw o l) →
            t.sched = { s.sched with rescinded := true })
        ∧ ((∃ cause, a.phase = .withdrawing cause) → s.sched.onLine ≠ .item (.lock .withdraw o l) →
            (s.sched.holds (.lock .withdraw o l) = true →
              SchedSettled { s with sched := itemGone s.sched (.lock .withdraw o l) } t)
            ∧ (s.sched.holds (.lock .withdraw o l) = false → SchedSettled s t)))
    ∧ ((∀ a, s.ops.acquire o l = some a → (∀ r, a.phase ≠ .queued r) ∧ ∀ cause, a.phase ≠ .withdrawing cause) →
        ∃ t, exec .grantNotice s = .next t ∧ SchedSettled s t
          ∧ t = { s with
              hand := { s.hand with ops := rest }
              ops := { s.ops with holds := withHold s.ops.holds l o m }
              sched := t.sched })

/-! ### What the Join Controller takes (09) -/

/-- The application of the station's own JOIN, or of its own FOUND, moves a station that asks to AWAIT_HEAD or to
MEMBER, where a live JOIN completes with DONE (09 R156, R157, R162). The first FOUND of another station sets the latch
and turns a station that founds or waits to joining; with the latch set it changes nothing (09 R161). The FOUND of a
station that founds is replaced by a JOIN: held while it is on the line, at its place in the list else, and nothing
where it stands no more (06 R98). -/
def Obligations.JoinAndFoundApplicationsMoveTheStation : Prop :=
  (∀ (s : State) (rest : List JoinHandOver), s.resetHeld = false →
      (s.hand.join = .ownJoin :: rest → s.join.state = .joining .sendJoin →
        exec .ownJoinApplied s
          = .next { s with
              hand := { s.hand with join := rest }
              join := { s.join with state := .joining .awaitHead, joinWait := .running s.joinWaitTicks } })
      ∧ (s.hand.join = .ownFound false :: rest →
          (s.join.state = .founding ∨ s.join.state = .joining .sendJoin) →
          exec .ownFoundApplied s
            = .next { s with
                hand := { s.hand with join := rest }
                join := { s.join with state := .joining .awaitHead, joinWait := .running s.joinWaitTicks }
                port := if s.join.state = .founding then
                    { s.port with attention := s.port.attention ||| 1 }
                  else s.port })
      ∧ (s.hand.join = .ownFound true :: rest →
          (s.join.state = .founding ∨ s.join.state = .joining .sendJoin) →
          ∃ t, exec .ownFoundApplied s = .next t ∧ EntersMember { s with hand := { s.hand with join := rest } } t))
  ∧ (∀ (s : State) (rest : List JoinHandOver), s.resetHeld = false → s.hand.join = .otherFound :: rest →
      (s.join.latch = true → exec .otherFoundApplied s = .next { s with hand := { s.hand with join := rest } })
      ∧ (s.join.latch = false → s.join.state = .founding →
          exec .otherFoundApplied s
            = .next { s with
                hand := { s.hand with join := rest }
                join := { s.join with latch := true, state := .joining .sendJoin }
                port := { s.port with attention := s.port.attention ||| 1 }
                sched :=
                  if s.sched.onLine = .item (.control .membership) then { s.sched with held := some .join }
                  else { s.sched with
                    control := s.sched.control.map fun i =>
                      if i.purpose = .membership then .membership .join else i } })
      ∧ (s.join.latch = false → s.join.state = .joining .awaitHead →
          exec .otherFoundApplied s
            = .next { s with
                hand := { s.hand with join := rest }
                join := { s.join with latch := true, state := .joining .sendJoin, joinWait := .stopped }
                sched := s.sched.queueControl (.membership .join) })
      ∧ (s.join.latch = false → s.join.state = .joining .sendJoin →
          exec .otherFoundApplied s
            = .next { s with hand := { s.hand with join := rest }, join := { s.join with latch := true } }))

/-- A snapshot frame naming this station is taken while it waits or loads: LOADING, the join wait loaded again (09
R157, R163, R164). At MEMBER a live JOIN completes with DONE, where there is one, and donor duty is evaluated (09 R153,
R164, R167). -/
def Obligations.LoadingReachesMember : Prop :=
  (∀ (s : State) (rest : List JoinHandOver), s.resetHeld = false →
      s.hand.join = .ownSnapdata true :: rest → s.join.state = .joining .loading →
      ∃ t, exec .ownSnapdataTaken s = .next t ∧ EntersMember { s with hand := { s.hand with join := rest } } t)
  ∧ (∀ (s : State) (rest : List JoinHandOver), s.resetHeld = false →
      (s.hand.join = .ownSnaphead :: rest → s.join.state = .joining .awaitHead →
        exec .ownSnapheadTaken s
          = .next { s with
              hand := { s.hand with join := rest }
              join := { s.join with state := .joining .loading, joinWait := .running s.joinWaitTicks } })
      ∧ (s.hand.join = .ownSnapdata false :: rest → s.join.state = .joining .loading →
        exec .ownSnapdataTaken s
          = .next { s with
              hand := { s.hand with join := rest }
              join := { s.join with joinWait := .running s.joinWaitTicks } }))

/-- A snapshot frame taken in SEND_JOIN or FOUNDING asks for the removal of the outstanding JOIN or FOUND: on the line
it is rescinded, and the station stays; not present, the station stays; removed, at once or after a veto, a loading
record makes the station LOADING and a MEMBER record MEMBER (09 R164, R165, 06 R104, R105). That the ALIVE of 08 R140 is
asked for only after the donor item is queued is the model's choice (log 39). -/
def Obligations.EarlySnapshotCancelsTheJoin : Prop :=
  (∀ (s : State) (reached : Bool) (rest : List JoinHandOver), s.resetHeld = false →
      (s.join.state = .founding ∨ s.join.state = .joining .sendJoin) →
      let m : ItemId := .control .membership
      let result (c : Instr) : Prop := ∃ t, exec c s = .next t
        ∧ (s.sched.onLine = .item m →
            t = { s with hand := { s.hand with join := rest }, sched := { s.sched with rescinded := true } })
        ∧ (∀ cur, s.sched.onLine ≠ .item m → s.sched.holds m = true →
            s.replica.members[s.straps.station].state = .joining true cur →
            SchedSettled { s with sched := itemGone s.sched m } t
            ∧ t = { s with
                hand := { s.hand with join := rest }
                sched := t.sched
                join := { s.join with state := .joining .loading, joinWait := .running s.joinWaitTicks }
                port := if s.join.state = .founding then
                    { s.port with attention := s.port.attention ||| 1 }
                  else s.port })
        ∧ (s.sched.onLine ≠ .item m → s.sched.holds m = true →
            s.replica.members[s.straps.station].state = .member →
            ∃ u, EntersMember { s with hand := { s.hand with join := rest }, sched := itemGone s.sched m } u
              ∧ SchedSettled u t ∧ t = { u with sched := t.sched })
        ∧ (s.sched.onLine ≠ .item m → s.sched.holds m = false →
            SchedSettled s t ∧ t = { s with hand := { s.hand with join := rest }, sched := t.sched })
      (s.hand.join = .ownSnaphead :: rest → result .ownSnapheadTaken)
      ∧ (s.hand.join = .ownSnapdata reached :: rest → result .ownSnapdataTaken))
  ∧ (∀ s : State, s.resetHeld = false → s.hand.itemRemoved = true →
      (s.join.state = .founding ∨ s.join.state = .joining .sendJoin) →
      (∀ cur, s.replica.members[s.straps.station].state = .joining true cur →
        exec .membershipItemRemoved s
          = .next { s with
              hand := { s.hand with itemRemoved := false }
              join := { s.join with state := .joining .loading, joinWait := .running s.joinWaitTicks }
              port := if s.join.state = .founding then
                  { s.port with attention := s.port.attention ||| 1 }
                else s.port })
      ∧ (s.replica.members[s.straps.station].state = .member →
        ∃ t, exec .membershipItemRemoved s = .next t
          ∧ EntersMember { s with hand := { s.hand with itemRemoved := false } } t))

/-- Donor duty after an application: ACTIVE exactly at a MEMBER that is the donor of a list that is not empty; ACTIVE
keeps a donor item queued, IDLE asks for its removal (09 R167, R168, 02 R36). -/
def Obligations.DonorDutyKeepsTheDonorItem : Prop :=
  ∀ (s : State) (own : Option OwnApplication) (donor : Option Station) (head : Option (Station × MemberRecord))
    (rest : List JoinHandOver), s.resetHeld = false → s.hand.join = .dutyView own donor head :: rest →
    ∃ t, exec .donorDutyEvaluation s = .next t
      ∧ t = { s with
          hand := { s.hand with join := rest }
          join := { s.join with duty := t.join.duty }
          sched := t.sched }
      ∧ (t.join.duty = true ↔ s.join.state = .member ∧ donor = some s.straps.station ∧ head ≠ none)
      ∧ (t.join.duty = true → s.sched.holds (.control .donor) = true → SchedSettled s t)
      ∧ (t.join.duty = true → s.sched.holds (.control .donor) = false →
          SchedSettled { s with sched := { s.sched with control := s.sched.control ++ [.donor] } } t)
      ∧ (t.join.duty = false → s.sched.holds (.control .donor) = false → SchedSettled s t)
      ∧ (t.join.duty = false → s.sched.holds (.control .donor) = true →
          s.sched.onLine ≠ .item (.control .donor) →
          SchedSettled { s with sched := itemGone s.sched (.control .donor) } t)
      ∧ (t.join.duty = false → s.sched.holds (.control .donor) = true →
          s.sched.onLine = .item (.control .donor) → t.sched = { s.sched with rescinded := true })

/-- The causes of a drop that an application hands over are kept until the drop: REFUSED with its reason, LEFT,
EVICTED (09 R166, R170, R171). That the drop is a step of its own is log 5. -/
def Obligations.ApplicationsHandOverDropCauses : Prop :=
  ∀ (s : State) (rest : List JoinHandOver), s.resetHeld = false →
    (∀ reason, s.hand.join = .refused reason :: rest →
      ((∃ sub, s.join.state = .joining sub) ∨ s.join.state = .founding) →
      exec .refuseTaken s
        = .next { s with hand := { s.hand with join := rest, dropCause := some (.refused reason) } })
    ∧ (s.hand.join = .ownLeave :: rest → s.join.state.participant = true →
      exec .ownLeaveApplied s = .next { s with hand := { s.hand with join := rest, dropCause := some .left } })
    ∧ (s.hand.join = .evictedSelf :: rest → s.join.state.participant = true →
      exec .evictNamingSelf s = .next { s with hand := { s.hand with join := rest, dropCause := some .evicted } })

/-- The drop to OUT, one event: every block does its part, the configuration, the origin, the flag, the epoch, the
request buffer and the replies that stand are kept, and every live operation replies with the reason's code, oldest
first, an ACQUIRE's attached CANCEL directly after it (07 R112; 09 R173, R174; 03 R66, R67; 04 R83; 06 R108; 07 R132;
08 R148; 01 R28; 02 R49). That the last telling of the scheduler is cleared is log 43. That it waits for the hand-overs
of the applications before it, and which cause goes first, is log 5. -/
def Obligations.DropReturnsTheStationToOut : Prop :=
  ∀ (s : State) (reason : DropReason), s.resetHeld = false →
    (s.hand.dropCause = some reason ∨ (s.hand.dropCause = none ∧ s.hand.withdrawal = some reason)) →
    s.join.state.participant = true → s.hand.ops = [] → s.hand.join = [] → s.hand.monitor = [] →
    ∃ (t : State) (order : List Operation), exec .drop s = .next t ∧ Completed (fun _ => True) s.ops.live order []
      ∧ t = { s with
          join :=
            { state := .out, dropRecord := some reason, latch := false, joinWait := .stopped
              rejoin := t.join.rejoin, duty := false, told := none }
          pli := { s.pli with
            ownVeto := 0, givenVeto := 0, part := false
            forfeited := s.pli.forfeited || s.pli.ownSlot = some true }
          intake := { s.intake with queue := [], valid := false }
          replica := emptyReplica s.straps
          sched :=
            { control := [], locks := [], retry := none
              onLine := if s.sched.onLine = .nothing then .nothing else .unlisted
              rescinded := false, held := none }
          ops := ⟨[], []⟩
          monitor := t.monitor
          port := { s.port with attention := t.port.attention, replies := t.port.replies }
          hand := { s.hand with notices := [], itemRemoved := false, withdrawal := none, dropCause := none } }
      ∧ t.monitor.ownSilence = .stopped ∧ (∀ v : Station, t.monitor.countdowns[v] = .stopped)
      ∧ t.monitor.isolation = .stopped ∧ t.monitor.lone = false
      ∧ t.port.replies = s.port.replies ++ order.map (fun op =>
          ⟨op.tag, op.body.kind,
            (match reason, op.body with
              | .evicted, _ => .evicted
              | .left, .detach => .done
              | .left, _ => .left
              | .withdrawnTx, _ => .withdrawn
              | .withdrawnRx, _ => .withdrawn
              | .refused _, _ => .refused), []⟩)
      ∧ t.port.attention = ((s.port.attention ||| 1)
          ||| (if ∃ v : Station, s.replica.members[v].state ≠ .absent then 2 else 0))
          ||| (if s.monitor.lone then 8 else 0)
      ∧ (∀ c, s.settings = some c → c.autoRejoin = true →
          (reason = .evicted ∨ reason = .withdrawnTx ∨ reason = .withdrawnRx) →
          t.join.rejoin = .running ((s.straps.station.val + 1) * c.period.toNat))
      ∧ ((∀ c, s.settings = some c → c.autoRejoin = false) → t.join.rejoin = .stopped)
      ∧ ((reason = .left ∨ ∃ x, reason = .refused x) → t.join.rejoin = .stopped)

/-! ### What the Presence Monitor takes (08) -/

/-- One hand-over of an application: countdowns end, are created and are loaded; another station's frame loads the
isolation counter and clears LONE, and at an own frame LONE becomes clear where the member table names no other station
(08 R141, R142, R146, R147). The Monitor holds the frame counts as last handed on (08 R143; log 22). That the hand-over
waits for the Monitor's expiries and for the Join Controller is log 4 and log 7. -/
def Obligations.HandOverMovesTheCountdowns : Prop :=
  ∀ (s : State) (h : MonitorHandOver) (rest : List MonitorHandOver), s.resetHeld = false →
    s.hand.monitor = h :: rest → s.hand.join = [] → EarlierCountersDone s 16 → s.monitor.isolation ≠ .due →
    ∃ t, exec .presenceHandOver s = .next t
      ∧ t = { s with
          hand := { s.hand with monitor := rest }
          sched := t.sched
          monitor := { s.monitor with
            countdowns := t.monitor.countdowns, isolation := t.monitor.isolation, lone := t.monitor.lone
            counts := t.monitor.counts }
          port := { s.port with attention := t.port.attention } }
      ∧ (∀ v : Station, (v, RecordTag.absent) ∈ h.changes → t.monitor.countdowns[v] = .stopped)
      ∧ (∀ v : Station, v ≠ s.straps.station → (v, RecordTag.absent) ∉ h.changes →
          s.monitor.countdowns[v] = .stopped →
          t.monitor.countdowns[v] =
            if s.replica.fabric ≠ none ∧ v ∈ h.changes.map Prod.fst then .running s.silenceLimit else .stopped)
      ∧ (∀ v : Station, v ≠ s.straps.station → (v, RecordTag.absent) ∉ h.changes →
          s.monitor.countdowns[v] ≠ .stopped →
          t.monitor.countdowns[v] = if v = h.sender then .running s.silenceLimit else s.monitor.countdowns[v])
      ∧ (h.sender ≠ s.straps.station →
          t.monitor.isolation = .running s.silenceLimit ∧ t.monitor.lone = false
          ∧ t.port.attention = if s.monitor.lone then s.port.attention ||| 8 else s.port.attention)
      ∧ (h.sender = s.straps.station →
          t.monitor.isolation = s.monitor.isolation
          ∧ ((∃ v : Station, v ≠ s.straps.station ∧ s.replica.members[v].state ≠ .absent) →
              t.monitor.lone = s.monitor.lone ∧ t.port.attention = s.port.attention)
          ∧ ((∀ v : Station, v ≠ s.straps.station → s.replica.members[v].state = .absent) →
              t.monitor.lone = false
              ∧ t.port.attention = if s.monitor.lone then s.port.attention ||| 8 else s.port.attention))
      ∧ (∀ v : Station, (∀ c, (v, c) ∉ h.counts) → t.monitor.counts[v] = s.monitor.counts[v])
      ∧ ∀ (v : Station) (c : Byte) (before after : List (Station × Byte)),
          h.counts = before ++ (v, c) :: after → (∀ c', (v, c') ∉ after) → t.monitor.counts[v] = c

/-- What a hand-over does to the EVICT items, for a frame of any sender. The EVICT of its sender, and of every station
whose record it made ABSENT, leaves the control list, with a retry mark that named it; on the line it is rescinded (08
R145, 06 R105). Where a countdown became RUNNING, each station whose countdown is EXPIRED is tested again, and the
EVICTs of those that pass join the tail in ascending station number with the counts held (08 R143, R144; log 22). The
other items keep their order, and the ALIVE of 08 R140 may follow (log 39). -/
def Obligations.HandOverQueuesAndTakesBackEvicts : Prop :=
  ∀ (s : State) (h : MonitorHandOver) (rest : List MonitorHandOver), s.resetHeld = false →
    s.hand.monitor = h :: rest → s.hand.join = [] → EarlierCountersDone s 16 → s.monitor.isolation ≠ .due →
    let evict (v : Station) : ItemId := .control (.evict v)
    let ended (v : Station) : Prop := (v, RecordTag.absent) ∈ h.changes
    let takenBack (v : Station) : Prop := v = h.sender ∨ ended v
    let becameRunning (v : Station) : Prop := v ≠ s.straps.station ∧ ¬ ended v
      ∧ if s.monitor.countdowns[v] = .stopped then s.replica.fabric ≠ none ∧ v ∈ h.changes.map Prod.fst
        else v = h.sender
    ∃ (t : State) (c : Sched), exec .presenceHandOver s = .next t ∧ SchedSettled { s with sched := c } t
      ∧ c.locks = s.sched.locks ∧ c.onLine = s.sched.onLine ∧ c.held = s.sched.held
      ∧ (c.rescinded = true ↔
          s.sched.rescinded = true ∨ ∃ v, takenBack v ∧ s.sched.onLine = .item (evict v))
      ∧ (∀ v, takenBack v → s.sched.onLine ≠ .item (evict v) → s.sched.holds (evict v) = true →
          s.sched.retry = some (evict v) → c.retry = none)
      ∧ ((∀ v, takenBack v → s.sched.retry ≠ some (evict v)) → c.retry = s.sched.retry)
      ∧ ∃ (kept : List ControlItem) (again : List Station),
          c.control = kept ++ again.map (fun v => ControlItem.evict v t.monitor.counts[v])
          ∧ kept = s.sched.control.filter (fun i =>
              match i.purpose with
              | .evict v =>
                !(decide (v = h.sender) || h.changes.contains (v, RecordTag.absent))
                  || decide (s.sched.onLine = .item (evict v))
              | _ => true)
          ∧ again.Pairwise (fun v w => v < w)
          ∧ ∀ v, v ∈ again ↔
              (∃ w, becameRunning w) ∧ v ≠ s.straps.station ∧ t.monitor.countdowns[v] = .expired
                ∧ (∃ w, w ≠ s.straps.station ∧ w ≠ v ∧ t.monitor.countdowns[w].isRunning = true)
                ∧ ∀ i ∈ kept, i.purpose ≠ .evict v

/-! ### Host accesses (11) -/

/-- The request buffer: its transitions at kind and argument bytes, and the host protocol errors they record (11 R185
to R187, R189, Table 11-2). An access with both strobes low changes nothing; one within the recovery time changes
nothing either, but for the byte that such a read leaves undefined, of which nothing is said (11 R184). -/
def Obligations.RequestBufferTransitions : Prop :=
  (∀ (a : HostAccess) (b : Byte) (s : State), s.resetHeld = false → Timely a →
      let step (c : Instr) (buffer : RequestBuffer) : Prop :=
        exec c s = .next { s with port := { s.port with buffer := buffer } }
      let error (c : Instr) (buffer : RequestBuffer) (e : HostError) : Prop :=
        exec c s = .next { s with
          port := { s.port with buffer := buffer, attention := s.port.attention ||| 4, lastError := e } }
      let kindByte : Instr := .kindByteWrite a b
      let argByte : Instr := .argumentByteWrite a b
      (s.port.buffer = .empty →
        (∀ k, requestKindOf b = some k → step kindByte (.filling k []))
        ∧ (requestKindOf b = none → error kindByte .empty .badKind)
        ∧ error argByte .empty .stray)
      ∧ (∀ k bytes, s.port.buffer = .filling k bytes →
        (bytes.length + 1 < k.argCount → step argByte (.filling k (bytes ++ [b])))
        ∧ (bytes.length + 1 = k.argCount → step argByte (.complete k (bytes ++ [b])))
        ∧ (∀ k', requestKindOf b = some k' → error kindByte (.filling k' []) .truncated)
        ∧ (requestKindOf b = none → error kindByte .empty .badKind))
      ∧ ∀ k bytes, s.port.buffer = .complete k bytes →
        error kindByte (.complete k bytes) .overrun ∧ error argByte (.complete k bytes) .stray)
  ∧ (∀ (a : HostAccess) (b : Byte) (s : State),
      (a.bothStrobes = true →
        exec (.kindByteWrite a b) s = .next s ∧ exec (.argumentByteWrite a b) s = .next s
          ∧ exec (.replyRead a) s = .next s)
      ∧ (a.idleCycles < 4 →
        exec (.kindByteWrite a b) s = .next s ∧ exec (.argumentByteWrite a b) s = .next s
          ∧ ∃ t, exec (.replyRead a) s = .next t
            ∧ t = { s with port := { s.port with lastRead := t.port.lastRead }, freeReads := t.freeReads }))

/-- A reply read returns the byte at the read position and moves on, past the last byte to the next reply; an empty
queue gives 00H and UNDERRUN (11 R192, R189); the byte returned is kept as lastRead (log 15). A reply is its length
byte, the tag, the kind code, the result code and the data; the length byte counts what follows it and is never 0 (11
R190, Table 11-6). A status read returns the status byte, field by field, and one that is ignored no defined byte (11
R184, R193, Table 11-7). RPY is high while a reply stands, ATN while an attention reason stands that the mask allows,
and both are low while RESET is held (11 R194). -/
def Obligations.ReplyReadReturnsTheNextByte : Prop :=
  (∀ (a : HostAccess) (s : State), s.resetHeld = false → Timely a →
      (∀ r rest, s.port.replies = r :: rest →
        (s.port.readPos + 1 < r.bytes.length →
          exec (.replyRead a) s
            = .next { s with
                port := { s.port with readPos := s.port.readPos + 1, lastRead := r.bytes[s.port.readPos]? } })
        ∧ (s.port.readPos + 1 = r.bytes.length →
          exec (.replyRead a) s
            = .next { s with
                port := { s.port with replies := rest, readPos := 0, lastRead := r.bytes[s.port.readPos]? } }))
      ∧ (s.port.replies = [] →
        exec (.replyRead a) s
          = .next { s with
              port := { s.port with
                lastRead := some 0, attention := s.port.attention ||| 4, lastError := .underrun } }))
  ∧ (∀ r : Reply, r.data.length ≤ 63 →
      ∃ n : Byte, r.bytes = n :: r.tag :: r.kind.code :: r.code.value :: r.data
        ∧ n.toNat = r.bytes.length - 1 ∧ 3 ≤ n.toNat ∧ n.toNat ≤ 66)
  ∧ (∀ (a : HostAccess) (s : State),
      ((s.resetHeld = true ∨ ¬ Timely a) → statusRead a s = none)
      ∧ (s.resetHeld = false → Timely a →
          ∃ b : Byte, statusRead a s = some b
            ∧ (b.extractLsb' 0 3).toNat = (match s.join.state with
                | .unconfigured => 0
                | .out => 1
                | .joining _ => 2
                | .founding => 3
                | .member => 4
                | .leaving => 5)
            ∧ (b.getLsbD 3 = true ↔ ∃ k bytes, s.port.buffer = .complete k bytes)
            ∧ b.getLsbD 4 = rpy s ∧ b.getLsbD 5 = atn s ∧ b.getLsbD 6 = s.monitor.lone
            ∧ (b.getLsbD 7 = true ↔ ∃ k bytes, s.port.buffer = .filling k bytes)))
  ∧ (∀ s : State,
      (rpy s = true ↔ s.resetHeld = false ∧ s.port.replies ≠ [])
      ∧ (atn s = true ↔ s.resetHeld = false
          ∧ ∃ n : Nat, s.port.attention.getLsbD n = true ∧ s.port.mask.getLsbD n = true))

/-! ### Requests (07, 09, 10, 11) -/

/-- A request stays in the buffer while live operations and replies number 32, and no command takes one that does not
stand; before SETUP every request but SETUP and QUERY_STATION is answered NOT_CONFIGURED (07 R111, 11 R188, 10 R179).
That a command whose request does not stand, or must wait, changes nothing is the model's choice (log 1). -/
def Obligations.RequestsWaitOrAreNotConfigured : Prop :=
  ∀ (k : RequestKind) (s : State),
    ((32 ≤ s.ops.live.length + s.port.replies.length ∨ ∀ bytes, s.port.buffer ≠ .complete k bytes) →
      exec (requestCommand k) s = .next s)
    ∧ ∀ bytes, Standing s k bytes → s.join.state = .unconfigured → k ≠ .setup → k ≠ .queryStation →
        exec (requestCommand k) s
          = .next (answered s (if k = .ack then 0 else bytes.getD 0 0) k .notConfigured [])

/-- SETUP: WRONG_STATE outside UNCONFIGURED, BAD_ARG for P, M or a bit out of range, else the configuration is taken,
the station is OUT and the idle measure is loaded, with the reply DONE and tag 0 (10 R180, R181). -/
def Obligations.SetupConfiguresTheStation : Prop :=
  ∀ (s : State) (p m flags : Byte), Standing s .setup [p, m, flags] →
    let good : Prop := 4 ≤ p.toNat ∧ 2 ≤ m.toNat ∧ m.toNat ≤ 8 ∧ flags &&& 0x70 = 0
    (s.join.state ≠ .unconfigured → exec .setup s = .next (answered s 0 .setup .wrongState []))
    ∧ (s.join.state = .unconfigured → ¬ good → exec .setup s = .next (answered s 0 .setup .badArg []))
    ∧ (s.join.state = .unconfigured → good →
        let u := answered s 0 .setup .done []
        exec .setup s
          = .next { u with
              settings := some ⟨p, m, flags.getLsbD 7⟩
              join := { s.join with state := .out }
              pli := { s.pli with idle := .running ((m.toNat + 1) * p.toNat) }
              port := { u.port with
                mask := flags.extractLsb' 0 4, attention := s.port.attention ||| 1 } })

/-- JOIN is taken in OUT, and DETACH in MEMBER, each to stay live; in every other state they reply WRONG_STATE (09 R153,
R154, R169; 07 R107, R133). A DETACH ends donor duty, queues a LEAVE where no membership item stands (06 R98), and
flushes the OUTBOUND operations: those whose item stands in the lock list and is not on the line reply LEFT, each with
its attached CANCEL directly after it, and their items leave (06 R107; the order of the replies is log 30). That no ALIVE
is queued between the removals and the LEAVE is the model's choice (log 39). -/
def Obligations.JoinAndDetachTakenInTheirState : Prop :=
  ∀ (s : State) (tag : Byte),
    (Standing s .join [tag] → s.join.state = .out →
      exec .join s
        = .next { taken s with
            ops := { s.ops with live := s.ops.live ++ [⟨tag, .join⟩] }
            join := { s.join with state := .joining .sendJoin, latch := false, rejoin := .stopped }
            port := { s.port with buffer := .empty, attention := s.port.attention ||| 1 }
            sched := s.sched.queueControl (.membership .join)
            monitor := { s.monitor with ownSilence := .running s.period } })
    ∧ (Standing s .join [tag] → s.join.state ≠ .out → s.join.state ≠ .unconfigured →
        exec .join s = .next (answered s tag .join .wrongState []))
    ∧ (Standing s .detach [tag] → s.join.state ≠ .member → s.join.state ≠ .unconfigured →
        exec .detach s = .next (answered s tag .detach .wrongState []))
    ∧ (Standing s .detach [tag] → s.join.state = .member →
        let donor : ItemId := .control .donor
        let flushed (op : Operation) : Prop :=
          ∃ id, outboundWith op id = true ∧ s.sched.holds id = true ∧ s.sched.onLine ≠ .item id
        ∃ (gone kept : List Operation) (retry : Option ItemId), Completed flushed s.ops.live gone kept
          ∧ exec .detach s
            = .next { taken s with
                ops := { s.ops with live := kept ++ [⟨tag, .detach⟩] }
                join := { s.join with state := .leaving, duty := false }
                port := { s.port with
                  buffer := .empty, attention := s.port.attention ||| 1
                  replies := s.port.replies ++ gone.map fun op => ⟨op.tag, op.body.kind, .left, []⟩ }
                sched := { s.sched with
                  control :=
                    (if s.sched.onLine = .item donor then s.sched.control
                      else s.sched.control.filter fun i => i.purpose ≠ .donor)
                    ++ (if s.sched.holds (.control .membership) = true then [] else [.membership .leave])
                  locks := s.sched.locks.filter fun i => !gone.any fun op => outboundWith op i.id
                  retry := retry
                  rescinded :=
                    s.sched.rescinded
                      || (s.sched.holds donor && decide (s.sched.onLine = .item donor)) } }
          ∧ (∀ id, s.sched.retry = some id → s.sched.holds id = true →
              ((id = donor ∧ s.sched.onLine ≠ .item donor) ∨ ∃ op ∈ gone, outboundWith op id = true) → retry = none)
          ∧ ((∀ id, s.sched.retry = some id → id ≠ donor ∧ ∀ op ∈ gone, outboundWith op id = false) →
              retry = s.sched.retry))

/-- The checks of an ACQUIRE, in their order, to the CLAIM that it sends: the station state, the argument bits, the
lock, the hold table, the two limits, the fast refusal (07 R115 to R117). At an UNKNOWN entry, which no MEMBER holds,
the model sends the CLAIM: log 36. -/
def Obligations.AcquireIsCheckedThenClaimed : Prop :=
  ∀ (s : State) (tag b l lo hi : Byte), Standing s .acquire [tag, b, l, lo, hi] → s.join.state ≠ .unconfigured →
    let o : Owner := lowNibble b
    let m : Mode := if b.getLsbD 7 then .x else .s
    let wait : Bool := b.getLsbD 6
    let reply (code : ResultCode) : Prop := exec .acquire s = .next (answered s tag .acquire code [])
    let e := s.replica.entry l
    let acquires := (s.ops.live.filter fun op => match op.body with | .acquire _ => true | _ => false).length
    (s.join.state ≠ .member → reply .notMember)
    ∧ (s.join.state = .member →
      (b &&& 0x30 ≠ 0 → reply .badArg)
      ∧ (b &&& 0x30 = 0 →
        (lockSpace s.straps ≤ l.toNat → reply .badLock)
        ∧ (l.toNat < lockSpace s.straps →
          (∀ h, s.ops.held o l = some h →
            (h.mode = .s → m = .x → reply .modeConflict)
            ∧ (¬ (h.mode = .s ∧ m = .x) → 8 ≤ h.depth → reply .depth)
            ∧ (¬ (h.mode = .s ∧ m = .x) → h.depth < 8 →
                exec .acquire s
                  = .next { answered s tag .acquire .granted [] with
                      ops := { s.ops with
                        holds := s.ops.holds.map fun h =>
                          if h.owner = o ∧ h.lock = l ∧ h.releasing = false then { h with depth := h.depth + 1 }
                          else h } }))
          ∧ (s.ops.held o l = none →
            (s.ops.acquire o l ≠ none → reply .duplicate)
            ∧ (s.ops.acquire o l = none → 64 ≤ s.ops.holds.length + acquires → reply .holdFull)
            ∧ (s.ops.acquire o l = none → s.ops.holds.length + acquires < 64 →
              (wait = false → s.ops.releasing o l = false → e.state ≠ .unknown → e.grantable m = false →
                reply .busy)
              ∧ (wait = true ∨ s.ops.releasing o l = true ∨ e.state = .unknown ∨ e.grantable m = true →
                exec .acquire s
                  = .next { taken s with
                      ops := { s.ops with
                        live := s.ops.live ++ [⟨tag, .acquire
                          { owner := o, lock := l, mode := m, wait := wait
                            limit := if wait then hi ++ lo else 0, phase := .outbound, attached := false }⟩] }
                      sched := { s.sched with locks := s.sched.locks ++ [.claim o l m wait] } }))))))

/-- A RELEASE: the argument bits, the lock, the HELD record; above depth 1 the depth falls, at depth 1 the record
becomes RELEASING and a FREE is queued (07 R120). -/
def Obligations.ReleaseLowersOrFrees : Prop :=
  ∀ (s : State) (tag b l : Byte), Standing s .release [tag, b, l] → s.join.state ≠ .unconfigured →
    let o : Owner := lowNibble b
    let reply (code : ResultCode) : Prop := exec .release s = .next (answered s tag .release code [])
    (b &&& 0xF0 ≠ 0 → reply .badArg)
    ∧ (b &&& 0xF0 = 0 → lockSpace s.straps ≤ l.toNat → reply .badLock)
    ∧ (b &&& 0xF0 = 0 → l.toNat < lockSpace s.straps →
      (s.ops.held o l = none → reply .notHolder)
      ∧ ∀ h, s.ops.held o l = some h →
        let held (f : HoldRecord → HoldRecord) : List HoldRecord :=
          s.ops.holds.map fun h => if h.owner = o ∧ h.lock = l ∧ h.releasing = false then f h else h
        (1 < h.depth →
          exec .release s
            = .next { answered s tag .release .released [] with
                ops := { s.ops with holds := held fun h => { h with depth := h.depth - 1 } } })
        ∧ (h.depth ≤ 1 →
          exec .release s
            = .next { taken s with
                ops :=
                  { live := s.ops.live ++ [⟨tag, .release o l .outbound⟩]
                    holds := held fun h => { h with releasing := true } }
                sched := { s.sched with locks := s.sched.locks ++ [.free o l] } }))

/-- A CANCEL acts by the phase of its target: NO_TARGET, the removal of the CLAIM, waiting for its outcome, or a
WITHDRAW (07 R126, R127, Table 7-5). -/
def Obligations.CancelActsByTheTargetsPhase : Prop :=
  ∀ (s : State) (tag b l : Byte), Standing s .cancel [tag, b, l] → s.join.state ≠ .unconfigured →
    let o : Owner := lowNibble b
    let claim : ItemId := .lock .claim o l
    let reply (code : ResultCode) : Prop := exec .cancel s = .next (answered s tag .cancel code [])
    (b &&& 0xF0 ≠ 0 → reply .badArg)
    ∧ (b &&& 0xF0 = 0 → lockSpace s.straps ≤ l.toNat → reply .badLock)
    ∧ (b &&& 0xF0 = 0 → l.toNat < lockSpace s.straps →
      (s.ops.acquire o l = none → reply .noTarget)
      ∧ ∀ a, s.ops.acquire o l = some a → a.owner = o → a.lock = l →
        ((a.attached = true ∨ ∃ cause, a.phase = .withdrawing cause) → reply .noTarget)
        ∧ (∀ live' r, a.attached = false → a.phase = .queued r →
            AcquireBecomes s.ops.live live' a { a with phase := .withdrawing .cancel, attached := true } →
            exec .cancel s
              = .next { taken s with
                  ops := { s.ops with live := live' ++ [⟨tag, .cancel o l⟩] }
                  sched := { s.sched with locks := s.sched.locks ++ [.withdraw o l] } })
        ∧ (∀ live', a.attached = false → (a.phase = .onLine ∨ a.phase = .applyWait) →
            AcquireBecomes s.ops.live live' a { a with attached := true } →
            ∃ t, exec .cancel s = .next t ∧ SchedSettled s t
              ∧ t = { taken s with
                  ops := { s.ops with live := live' ++ [⟨tag, .cancel o l⟩] }, sched := t.sched })
        ∧ (∀ live', a.attached = false → a.phase = .outbound → s.sched.onLine = .item claim →
            AcquireBecomes s.ops.live live' a { a with phase := .onLine, attached := true } →
            exec .cancel s
              = .next { taken s with
                  ops := { s.ops with live := live' ++ [⟨tag, .cancel o l⟩] }
                  sched := { s.sched with rescinded := true } })
        ∧ (∀ others target, a.attached = false → a.phase = .outbound → s.sched.onLine ≠ .item claim →
            s.sched.holds claim = true → AcquireLives s.ops.live target a none others →
            (∀ op ∈ others, op.isAcquire o l = false ∧ op.isCancel o l = false) →
            ∃ t, exec .cancel s = .next t
              ∧ t = { taken s with
                  ops := { s.ops with live := others }
                  port := { s.port with
                    buffer := .empty, replies := s.port.replies ++ pairReplies target .cancelled (some tag) .done }
                  sched := t.sched }
              ∧ SchedSettled { s with sched := itemGone s.sched claim } t))

/-- QUERY_LOCK and QUERY_MEMBERS are answered at once with what the replica holds (11 R197, R198); QUERY_STATION is
answered in every state with the fields of its table (11 R199, Table 11-9). -/
def Obligations.QueriesShowTheReplicaAndTheStation : Prop :=
  (∀ (s : State) (tag l : Byte), s.join.state ≠ .unconfigured →
      (Standing s .queryLock [tag, l] →
        (lockSpace s.straps ≤ l.toNat → exec .queryLock s = .next (answered s tag .queryLock .badLock []))
        ∧ (l.toNat < lockSpace s.straps →
            exec .queryLock s = .next (answered s tag .queryLock .done (entryBytes l (s.replica.entry l)))))
      ∧ (Standing s .queryMembers [tag] →
          exec .queryMembers s
            = .next (answered s tag .queryMembers .done
                (s.replica.members.toList.flatMap recordBytes
                  ++ BitVec.ofNat 8 s.replica.joinList.length
                  :: s.replica.joinList.flatMap (itemBytes s.replica.members)))))
  ∧ (∀ (s : State) (tag : Byte), Standing s .queryStation [tag] →
      ∃ d : List Byte, exec .queryStation s = .next (answered s tag .queryStation .done d)
        ∧ d.length = 11
        ∧ (d.getD 0 0).toNat = s.join.state.code + 16 * s.join.state.subCode
        ∧ d.getD 1 0 = dropRecordByte s.join.dropRecord
        ∧ (d.getD 2 0).toNat = s.pli.ownVeto.toNat ∧ (d.getD 3 0).toNat = s.pli.givenVeto.toNat
        ∧ (s.ops.live.length ≤ 32 → (d.getD 4 0).toNat = s.ops.live.length)
        ∧ (s.ops.holds.length ≤ 64 → (d.getD 5 0).toNat = s.ops.holds.length)
        ∧ (s.replica.poolUse ≤ 128 → (d.getD 6 0).toNat = s.replica.poolUse)
        ∧ d.getD 7 0 ++ d.getD 8 0 = s.intake.epoch
        ∧ (d.getD 9 0).extractLsb' 0 4 = s.port.attention ∧ (d.getD 9 0).extractLsb' 4 2 = 0
        ∧ (d.getD 9 0).getLsbD 6 = s.intake.valid ∧ (d.getD 9 0).getLsbD 7 = s.monitor.lone
        ∧ d.getD 10 0 = s.port.lastError.code)

/-- ACK clears the reasons that its mask names, and no other; a mask with a high bit set is BAD_ARG and clears nothing
(11 R196). -/
def Obligations.AckClearsTheNamedReasons : Prop :=
  ∀ (s : State) (mask : Byte), Standing s .ack [mask] →
    (s.join.state = .unconfigured → exec .ack s = .next (answered s 0 .ack .notConfigured []))
    ∧ (s.join.state ≠ .unconfigured → mask &&& 0xF0 ≠ 0 → exec .ack s = .next (answered s 0 .ack .badArg []))
    ∧ (s.join.state ≠ .unconfigured → mask &&& 0xF0 = 0 →
        let u := answered s 0 .ack .done []
        exec .ack s
          = .next { u with
              port := { u.port with attention := s.port.attention &&& ~~~(mask.extractLsb' 0 4) } })

/-! ### Invariants that every command keeps -/

/-- Replies and live operations never exceed 32 together (07 R111). At most one hold record for a pair, and every
depth from 1 to 8 (07 R114). -/
def Obligations.OperationsAndHoldsStaySound : Prop :=
  (∀ s t : State, step s = .next t → OperationsBounded s → OperationsBounded t)
  ∧ (∀ s t : State, step s = .next t → HoldsSound s → HoldsSound t)

/-- The apply queue never holds more than 4 frames (04 R71). -/
def Obligations.ApplyQueueStaysBounded : Prop :=
  ∀ s t : State, step s = .next t → ApplyQueueBounded s → ApplyQueueBounded t

/-- The scheduler's lists and marks stay sound (06 R96 to R98). -/
def Obligations.SchedulerStaysSound : Prop :=
  ∀ s t : State, step s = .next t → SchedulerSound s.sched → SchedulerSound t.sched

/-- Every lock entry obeys 01 R1 to R3, in a table of L entries. -/
def Obligations.LockTableStaysSound : Prop :=
  ∀ s t : State, step s = .next t → LockTableSound s → LockTableSound t

/-- The join list holds exactly the stations whose record is JOINING or REFUSE_DUE, at most 15 and none twice (02
R32). -/
def Obligations.MembershipStaysSound : Prop :=
  ∀ s t : State, step s = .next t → MembershipSound s → MembershipSound t

/-- Every invariant holds right after reset, with any straps. -/
def Obligations.ResetStatesAreSound : Prop :=
  ∀ p : Straps, OperationsBounded (resetState p) ∧ HoldsSound (resetState p) ∧ ApplyQueueBounded (resetState p)
    ∧ SchedulerSound (resetState p).sched ∧ LockTableSound (resetState p) ∧ MembershipSound (resetState p)
    ∧ State.reset = resetState ⟨0, 0, false, 0⟩

/-! ### Encodings (05) -/

/-- A receiver that removes the inserted bits has the bytes that the sender sent, from the frame-start bit on (05 R85,
03 R69). -/
def Obligations.InsertedBitsComeOff : Prop :=
  (∀ (prev : Bool) (run : Nat) (bits : List Bool), 1 ≤ run → run ≤ 5 →
    removeBits prev run (insertBits prev run bits) = some bits)
  ∧ ∀ bytes : List Byte, bytesOfLevels (levelsOfBytes bytes) = some bytes

/-- A frame of every kind, sound and within its fields, passes its checks at a receiver and is the frame that was sent
(05 R86 to R95). -/
def Obligations.FramesDecodeAsSent : Prop :=
  (∀ (limit : Nat) (f : Frame), FixedFrame limit f → receiveFrame limit (frameLevels f) = some f)
  ∧ (∀ (limit : Nat) (f : Frame),
      (∀ h, f.body = .snaphead h → SoundHead h → receiveFrame limit (frameLevels f) = some f)
      ∧ ∀ j start es, f.body = .snapdata j start es → SoundData limit start es →
          receiveFrame limit (frameLevels f) = some f)
end

