-- ==== Sys2Proof/Laws/Membership.lean ====
section
/-! SUPPORT. What the tests on the member table and the join list say of the records. -/
namespace Sys2Proof.Machine

theorem Replica.evictTaken_iff (r : Replica) (sender v : Station) (count : Byte) :
    r.evictTaken sender v count = true
      ↔ v ≠ sender ∧ r.members[v].state ≠ .absent ∧ r.members[v].count = count := by
  have h : r.evictTaken sender v count = true
      ↔ v ≠ sender ∧ (r.record v).state ≠ .absent ∧ (r.record v).count = count := by
    simp [Replica.evictTaken, and_assoc]
  exact h

theorem Replica.refusalDue_iff (r : Replica) (j : Station) :
    (r.refusalDue j).isSome = true ↔ ∃ x, r.members[j].state = .refuseDue x := by
  have h : (r.refusalDue j).isSome = true ↔ ∃ x, (r.record j).state = .refuseDue x := by
    unfold Replica.refusalDue
    cases (r.record j).state <;> simp
  exact h

theorem Replica.headTaken_iff (r : Replica) (j : Station) :
    r.headTaken j = true ↔ r.joinList.head? = some j ∧ ∃ c, r.members[j].state = .joining false c := by
  have h : r.headTaken j = true ↔ r.joinList.head? = some j ∧ ∃ c, (r.record j).state = .joining false c := by
    unfold Replica.headTaken
    cases (r.record j).state with
    | joining headSent cursor => cases headSent <;> simp
    | absent => simp
    | refuseDue reason => simp
    | member => simp
  exact h

theorem Replica.dataTaken_iff (r : Replica) (j : Station) (start : Nat) :
    r.dataTaken j start = true ↔ r.joinList.head? = some j ∧ r.members[j].state = .joining true start := by
  have h : r.dataTaken j start = true ↔ r.joinList.head? = some j ∧ (r.record j).state = .joining true start := by
    simp [Replica.dataTaken]
  exact h

theorem SnapHead.agrees_iff (h : SnapHead) (sender : Station) :
    h.agrees sender = true
      ↔ h.members[sender].state = .member ∧ h.joinList.head? = some h.joiner
        ∧ ∃ c, h.members[h.joiner].state = .joining false c := by
  unfold SnapHead.agrees
  generalize h.members[sender].state = x
  generalize h.members[h.joiner].state = y
  cases y with
  | joining headSent cursor => cases headSent <;> simp
  | absent => simp
  | refuseDue reason => simp
  | member => simp

theorem Replica.namesOther_iff (r : Replica) (self : Station) :
    r.namesOther self = true ↔ ∃ v : Station, v ≠ self ∧ r.members[v].state ≠ .absent := by
  have h : r.namesOther self = true ↔ ∃ v : Station, v ≠ self ∧ (r.record v).state ≠ .absent := by
    simp [Replica.namesOther]
  exact h

theorem Replica.donor_eq_none_iff (r : Replica) :
    r.donor = none ↔ ∀ v : Station, r.members[v].state ≠ .member := by
  have h : r.donor = none ↔ ∀ v : Station, (r.record v).state ≠ .member := by
    simp [Replica.donor]
  exact h

theorem Replica.memberless_iff (r : Replica) :
    r.memberless = true ↔ r.fabric ≠ none ∧ ∀ v : Station, r.members[v].state ≠ .member := by
  rw [← Replica.donor_eq_none_iff]
  simp [Replica.memberless, Option.isSome_iff_ne_none]

@[simp] theorem RecordState.tag_eq_absent_iff (st : RecordState) : st.tag = .absent ↔ st = .absent := by
  cases st <;> simp [RecordState.tag]

/-- No record changes state when the replica is discarded exactly where every record is ABSENT. -/
theorem stateChanges_empty_iff (r : Replica) (p : Straps) :
    stateChanges r (emptyReplica p) = [] ↔ ∀ v : Station, r.members[v].state = .absent := by
  have h : stateChanges r (emptyReplica p) = [] ↔ ∀ v : Station, (r.record v).state = .absent := by
    have he : ∀ v : Station, ((emptyReplica p).record v).state = .absent := by
      intro v
      simp [Replica.record, emptyReplica, absentRecord]
    simp only [stateChanges, List.filterMap_eq_nil_iff]
    constructor
    · intro h v
      have := h v (List.mem_finRange v)
      rw [he v] at this
      by_contra hv
      have ht : (r.record v).state.tag ≠ RecordState.tag .absent := by
        rw [show RecordState.tag .absent = .absent from rfl, ne_eq, RecordState.tag_eq_absent_iff]
        exact hv
      simp [ht] at this
    · intro h v _
      rw [he v, h v]
      simp
  exact h

/-- An eviction test passes exactly where a third station's countdown is RUNNING. -/
theorem Monitor.thirdRunning_iff (m : Monitor) (self v : Station) :
    m.thirdRunning self v = true ↔ ∃ w : Station, w ≠ self ∧ w ≠ v ∧ m.countdowns[w].isRunning = true := by
  simp [Monitor.thirdRunning, and_assoc]

/-- No countdown of a station below v is due. -/
theorem Monitor.dueBelow_eq_false_iff (m : Monitor) (v : Nat) :
    m.dueBelow v = false ↔ ∀ w : Station, w.val < v → m.countdowns[w] ≠ .due := by
  simp [Monitor.dueBelow]

end Sys2Proof.Machine
end

