-- ==== Sys2Proof/Laws/Scheduler.lean ====
section
/-! SUPPORT. The Send Scheduler's operations: what each can do to the lists and the marks. -/
namespace Sys2Proof.Machine

theorem State.whenRunning_of_released (s : State) (f : State → State) (h : s.resetHeld = false) :
    s.whenRunning f = .next (f s) := by
  simp [State.whenRunning, h]

theorem State.whenRunning_of_held (s : State) (f : State → State) (h : s.resetHeld = true) :
    s.whenRunning f = .next s := by
  simp [State.whenRunning, h]

/-- Items of a control id stand in the control list. -/
theorem Sched.holds_control (c : Sched) (p : Purpose) :
    c.holds (.control p) = true ↔ ∃ i ∈ c.control, i.purpose = p := by
  have h : ∀ i : LockItem, i.id ≠ .control p := by intro i; cases i <;> simp [LockItem.id]
  simp [Sched.holds, ControlItem.id, h]

/-- Items of a lock id stand in the lock list. -/
theorem Sched.holds_lock (c : Sched) (k : LockKind) (o : Owner) (l : Byte) :
    c.holds (.lock k o l) = true ↔ ∃ i ∈ c.locks, i.id = .lock k o l := by
  simp [Sched.holds, ControlItem.id]

theorem Sched.queueControl_held (c : Sched) (i : ControlItem) (h : c.holds i.id = true) : c.queueControl i = c := by
  simp [Sched.queueControl, h]

theorem Sched.queueControl_new (c : Sched) (i : ControlItem) (h : c.holds i.id = false) :
    c.queueControl i = { c with control := c.control ++ [i] } := by
  simp [Sched.queueControl, h]

theorem Sched.queueControl_holds (c : Sched) (i : ControlItem) : (c.queueControl i).holds i.id = true := by
  unfold Sched.queueControl
  split
  · assumption
  · simp [Sched.holds]

/-- A scheduler without a candidate holds no ALIVE item. -/
theorem Sched.candidate_none_alive (c : Sched) (q : Bool) (h : c.candidate q = none) :
    c.holds (.control .alive) = false := by
  rw [Bool.eq_false_iff]
  intro hh
  obtain ⟨i, hi, hp⟩ := (c.holds_control .alive).1 hh
  simp only [Sched.candidate, Option.orElse_eq_orElse, Option.orElse_eq_or, Option.or_eq_none_iff, Option.map_eq_none_iff,
    List.find?_eq_none] at h
  have := h.2.1 i hi
  simp [hp, Purpose.ready] at this

/-- No item of the id is left where it was taken. -/
theorem Sched.take_holds (c : Sched) (id : ItemId) : (c.take id).holds id = false := by
  simp [Sched.holds, Sched.take]

/-- Other items stay where one is taken. -/
theorem Sched.take_holds_other (c : Sched) (id id' : ItemId) (h : id' ≠ id) : (c.take id).holds id' = c.holds id' := by
  have h1 : ∀ i : ControlItem, i.id = id' → i.id ≠ id := by rintro i rfl; exact h
  have h2 : ∀ i : LockItem, i.id = id' → i.id ≠ id := by rintro i rfl; exact h
  simp only [Sched.holds, Sched.take, List.any_filter]
  congr 1
  · congr 1; funext i; by_cases hi : i.id = id' <;> simp [hi, h]
  · congr 1; funext i; by_cases hi : i.id = id' <;> simp [hi, h]

theorem Sched.remove_on_line (c : Sched) (id : ItemId) (h : c.onLine = .item id) :
    c.remove id = ({ c with rescinded := true }, .onTheLine) := by
  simp [Sched.remove, h]

theorem Sched.remove_listed (c : Sched) (id : ItemId) (h : c.onLine ≠ .item id) (h' : c.holds id = true) :
    c.remove id = (c.take id, .removed) := by
  simp [Sched.remove, h, h']

theorem Sched.remove_absent (c : Sched) (id : ItemId) (h : c.onLine ≠ .item id) (h' : c.holds id = false) :
    c.remove id = (c, .notPresent) := by
  simp [Sched.remove, h, h']

/-- After a removal request the item is gone or rescinded on the line. -/
theorem Sched.remove_holds (c : Sched) (id : ItemId) (h : c.onLine ≠ .item id) : (c.remove id).1.holds id = false := by
  cases h' : c.holds id
  · simp [Sched.remove_absent c id h h', h']
  · simp [Sched.remove_listed c id h h', Sched.take_holds]

/-- The ALIVE of 08 R140 is queued or nothing happens. -/
theorem State.settleAlive_cases (s : State) :
    s.settleAlive = s ∨ (s.monitor.ownSilence = .expired ∧ s.sched.onLine = .nothing
      ∧ s.settleAlive = { s with sched := { s.sched with control := s.sched.control ++ [.alive] } }) := by
  unfold State.settleAlive
  split
  · rename_i h
    right
    have h2 := h.2
    simp only [State.schedIdle, Sched.idle, Bool.and_eq_true, Option.isNone_iff_eq_none, decide_eq_true_eq] at h2
    refine ⟨h.1, h2.2, ?_⟩
    have := Sched.queueControl_new s.sched .alive (Sched.candidate_none_alive _ _ h2.1)
    simp [State.queueControl, State.withSched, this]
  · exact .inl rfl

/-- What settling leaves of the scheduler. -/
theorem State.settleAlive_sched (s : State) :
    s.settleAlive.sched =
      if s.monitor.ownSilence = .expired ∧ s.sched.candidate s.intake.queue.isEmpty = none ∧ s.sched.onLine = .nothing then
        { s.sched with control := s.sched.control ++ [.alive] }
      else s.sched := by
  have hi : s.schedIdle = true ↔ s.sched.candidate s.intake.queue.isEmpty = none ∧ s.sched.onLine = .nothing := by
    simp [State.schedIdle, Sched.idle]
  unfold State.settleAlive
  by_cases h : s.monitor.ownSilence = .expired ∧ s.sched.candidate s.intake.queue.isEmpty = none
      ∧ s.sched.onLine = .nothing
  · rw [if_pos ⟨h.1, hi.2 h.2⟩, if_pos h]
    exact Sched.queueControl_new s.sched .alive (Sched.candidate_none_alive _ _ h.2.1)
  · rw [if_neg fun h' => h ⟨h'.1, hi.1 h'.2⟩, if_neg h]

theorem State.settleAlive_of_not_expired (s : State) (h : s.monitor.ownSilence ≠ .expired) : s.settleAlive = s := by
  simp [State.settleAlive, h]

theorem State.settleAlive_of_on_line (s : State) (h : s.sched.onLine ≠ .nothing) : s.settleAlive = s := by
  simp [State.settleAlive, State.schedIdle, Sched.idle, h]

theorem State.settleAlive_of_candidate (s : State) (h : s.candidate ≠ none) : s.settleAlive = s := by
  unfold State.candidate at h
  simp [State.settleAlive, State.schedIdle, Sched.idle, h]

theorem State.settleAlive_sched_only (s : State) : s.settleAlive = { s with sched := s.settleAlive.sched } := by
  rcases s.settleAlive_cases with h | ⟨-, -, h⟩ <;> rw [h]

end Sys2Proof.Machine
end

