-- ==== Sys2Proof/Laws/Apply.lean ====
section
/-! SUPPORT. The Apply Unit: what the taking of the head frame comes to, applied or discarded. -/
namespace Sys2Proof.Machine
open Sys2Proof.Safety

/-- What settling the scheduler does, in the words of the statements. -/
theorem State.settleAlive_settled {s t : State} (h : t.sched = s.sched) : SchedSettled s t.settleAlive := by
  have he := t.settleAlive_sched_only
  unfold SchedSettled
  rw [he, ← h]
  exact t.settleAlive_sched

/-- The frame was taken, in the words of the statements. -/
theorem State.takenOwn_iff (s : State) (f : Frame) (hf : f.sender = s.straps.station) :
    s.takenOwn f = true ↔ OwnTaken s f := by
  have hc : s.replica.fabric = none → ((f.body.kind = .found ∧ s.creates f = true) ↔
      f.body.kind = .found ∧ s.join.latch = false
        ∧ (s.join.state = .founding ∨ s.join.state = .joining .sendJoin)) := by
    intro hn
    unfold State.creates
    simp only [State.isOwn, State.self, hf, hn]
    cases s.join.state with
    | joining sub => cases sub <;> simp
    | _ => simp
  cases hn : s.replica.fabric with
  | none => simpa [State.takenOwn, OwnTaken, hn] using hc hn
  | some fr =>
    have e : s.takenOwn f = s.replica.takes f := by simp [State.takenOwn, hn]
    rw [e]
    unfold OwnTaken Replica.takes
    cases hb : f.body <;>
      simp [hn, Replica.evictTaken_iff, Replica.headTaken_iff, Replica.dataTaken_iff, Replica.refusalDue_iff,
        Config.joinListLimit, imp_iff_not_or] <;>
      first | rfl | exact .inr Iff.rfl

theorem State.ownApplication_told (s : State) (f : Frame) (after : Replica) :
    OwnTold s f after (s.ownApplication f after) := by
  unfold OwnTold State.ownApplication
  by_cases hf : f.sender = s.straps.station
  · rw [if_pos hf, if_pos (by simpa [State.isOwn] using hf)]
    refine ⟨_, rfl, rfl, s.takenOwn_iff f hf, ?_⟩
    simp only [Bool.and_eq_true, Bool.not_eq_true', decide_eq_true_eq, decide_eq_false_iff_not]
    rfl
  · rw [if_neg hf, if_neg (by simpa [State.isOwn] using hf)]

theorem State.popFrame_eq {s : State} {f : Frame} {rest : List Frame} (h : s.intake.queue = f :: rest) :
    s.popFrame = { s with intake := { s.intake with queue := rest } } := by
  simp [State.popFrame, State.withIntake, h]

/-- The head frame is taken by the command of its kind. -/
theorem State.applyHead_taken {s : State} {f : Frame} {rest : List Frame} {k : FrameKind} (h : Takes s f rest)
    (hk : f.body.kind = k) (effect : Frame → State → Option Applied) :
    s.applyHead k effect =
      match effect f s.popFrame with
      | some a => (s.popFrame.handOn f a).settleAlive
      | none => s.popFrame.settleAlive := by
  obtain ⟨-, hq, hd, hl⟩ := h
  rw [State.applyHead, hq]
  exact if_pos ⟨hk, hd, hl⟩

/-- An applied frame: the replica, the count, the hand-overs. -/
theorem State.handOn_applied {s : State} {f : Frame} {rest : List Frame} (h : Takes s f rest) (a : Applied) :
    AppliedAs s (s.popFrame.handOn f a).settleAlive f rest a.replica a.epoch
      (ownOutcome s.straps.station f.sender a.outcome ++ grantNotices s.straps.station a.grants) a.join := by
  obtain ⟨-, hq, -, -⟩ := h
  have hp := State.popFrame_eq hq
  have hsched : (s.popFrame.handOn f a).sched = s.sched := by
    rw [hp]
    simp only [State.handOn]
    cases a.epoch <;> split <;> rfl
  refine ⟨State.settleAlive_settled hsched, s.popFrame.ownApplication f (a.replica.countFrame f.sender), ?_, ?_⟩
  · rw [hp]
    exact State.ownApplication_told { s with intake := { s.intake with queue := rest } } f _
  rw [State.settleAlive_sched_only]
  rw [hp]
  simp only [State.handOn]
  by_cases hc : stateChanges s.replica (a.replica.countFrame f.sender) = [] <;> cases he : a.epoch <;>
    simp [hc, State.withReplica, State.withIntake, State.withHand, State.attend, State.withPort, HostPort.raise,
      attMembers, State.self] <;> rfl

/-- A discarded frame leaves the queue and nothing else happens. -/
theorem State.popFrame_discarded {s : State} {f : Frame} {rest : List Frame} (h : Takes s f rest) :
    Discarded s s.popFrame.settleAlive rest := by
  obtain ⟨-, hq, -, -⟩ := h
  have hp := State.popFrame_eq hq
  refine ⟨State.settleAlive_settled (by rw [hp]), ?_⟩
  rw [State.settleAlive_sched_only]
  rw [hp]

/-- The state at which the head frame's effect is found: the frame has left the queue. -/
abbrev popped (s : State) (rest : List Frame) : State := { s with intake := { s.intake with queue := rest } }

/-- An apply command whose effect on the head frame is `a` answers the state in which `a` is applied. -/
theorem State.applyHead_applies {s : State} {f : Frame} {rest : List Frame} {k : FrameKind}
    {effect : Frame → State → Option Applied} {a : Applied} {ops : List OpsHandOver} (h : Takes s f rest)
    (hk : f.body.kind = k) (he : effect f (popped s rest) = some a)
    (ho : ownOutcome s.straps.station f.sender a.outcome ++ grantNotices s.straps.station a.grants = ops) :
    ∃ t, (s.whenRunning fun s => s.applyHead k effect) = .next t ∧ AppliedAs s t f rest a.replica a.epoch ops a.join := by
  refine ⟨_, ?_, ho ▸ State.handOn_applied h a⟩
  rw [State.whenRunning_of_released s _ h.1, State.applyHead_taken h hk, State.popFrame_eq h.2.1]
  simp only [popped] at he
  simp only [he]

/-- An apply command without an effect for the head frame discards it. -/
theorem State.applyHead_discards {s : State} {f : Frame} {rest : List Frame} {k : FrameKind}
    {effect : Frame → State → Option Applied} (h : Takes s f rest) (hk : f.body.kind = k)
    (he : effect f (popped s rest) = none) :
    ∃ t, (s.whenRunning fun s => s.applyHead k effect) = .next t ∧ Discarded s t rest := by
  refine ⟨_, ?_, State.popFrame_discarded h⟩
  rw [State.whenRunning_of_released s _ h.1, State.applyHead_taken h hk, State.popFrame_eq h.2.1]
  simp only [popped] at he
  simp only [he]

/-- The screen at a fabric passes a frame whose sender is not ABSENT. -/
theorem State.screened_passed {s : State} {f : Frame} (own : List JoinHandOver) (effect : Replica → Applied)
    (hf : s.replica.fabric ≠ none) (hs : s.replica.members[f.sender].state ≠ .absent) :
    s.screened f own effect = some (effect s.replica) := by
  have hs' : ¬ (s.replica.record f.sender).state = .absent := hs
  simp [State.screened, Option.isSome_iff_ne_none, hf, hs']

/-- The screen for donor frames passes a MEMBER's. -/
theorem State.screenedDonor_passed {s : State} {f : Frame} (effect : Replica → Applied)
    (hs : s.replica.members[f.sender].state = .member) : s.screenedDonor f effect = some (effect s.replica) := by
  have hs' : (s.replica.record f.sender).state = .member := hs
  simp [State.screenedDonor, hs']

/-- The screen reads the replica alone: it passes at the state in which the effect is found. -/
theorem popped_screened_passed {s : State} {f : Frame} (rest : List Frame) (own : List JoinHandOver)
    (effect : Replica → Applied) (hf : s.replica.fabric ≠ none) (hs : s.replica.members[f.sender].state ≠ .absent) :
    (popped s rest).screened f own effect = some (effect s.replica) :=
  State.screened_passed own effect hf hs

theorem popped_screenedDonor_passed {s : State} {f : Frame} (rest : List Frame) (effect : Replica → Applied)
    (hs : s.replica.members[f.sender].state = .member) :
    (popped s rest).screenedDonor f effect = some (effect s.replica) :=
  State.screenedDonor_passed effect hs

end Sys2Proof.Machine
end

