-- ==== Sys2Proof/Laws/Operations.lean ====
section
/-! SUPPORT. The operation table and the requests: what finding, changing and completing an operation comes to where the
live operations are split at it. -/
namespace Sys2Proof.Machine

theorem Operation.acquireOf_of_isAcquire_false {o : Owner} {l : Byte} {op : Operation} (h : op.isAcquire o l = false) :
    op.acquireOf o l = none := by
  simpa [Operation.isAcquire] using h

@[simp] theorem Operation.acquireOf_acquire (tag : Byte) (a : Acquire) :
    Operation.acquireOf a.owner a.lock ⟨tag, .acquire a⟩ = some a := by
  simp [Operation.acquireOf]

@[simp] theorem Operation.isAcquire_acquire (tag : Byte) (a : Acquire) :
    Operation.isAcquire a.owner a.lock ⟨tag, .acquire a⟩ = true := by
  simp [Operation.isAcquire]

@[simp] theorem Operation.isAcquire_cancel (o o' : Owner) (l l' : Byte) (tag : Byte) :
    Operation.isAcquire o l ⟨tag, .cancel o' l'⟩ = false := by
  simp [Operation.isAcquire, Operation.acquireOf]

@[simp] theorem Operation.isCancel_acquire (o : Owner) (l : Byte) (tag : Byte) (a : Acquire) :
    Operation.isCancel o l ⟨tag, .acquire a⟩ = false := by
  simp [Operation.isCancel]

@[simp] theorem Operation.isCancel_cancel (o : Owner) (l : Byte) (tag : Byte) :
    Operation.isCancel o l ⟨tag, .cancel o l⟩ = true := by
  simp [Operation.isCancel]

/-- The first live ACQUIRE for its pair is the one that the table finds. -/
theorem OpsUnit.acquire_of_split {u : OpsUnit} {before after : List Operation} {tag : Byte} {a : Acquire}
    (h : u.live = before ++ ⟨tag, .acquire a⟩ :: after) (hb : ∀ op ∈ before, op.isAcquire a.owner a.lock = false) :
    u.acquire a.owner a.lock = some a := by
  have hn : before.findSome? (Operation.acquireOf a.owner a.lock) = none := by
    rw [List.findSome?_eq_none_iff]
    exact fun op h => Operation.acquireOf_of_isAcquire_false (hb op h)
  rw [OpsUnit.acquire, h, List.findSome?_append, hn]
  simp

/-- A change of the ACQUIRE of a pair leaves operations alone that are no ACQUIRE of it. -/
theorem updateAcquire_map_id (o : Owner) (l : Byte) (f : Acquire → Acquire) (ops : List Operation)
    (h : ∀ op ∈ ops, op.isAcquire o l = false) :
    (OpsUnit.updateAcquire ⟨ops, []⟩ o l f).live = ops := by
  simp only [OpsUnit.updateAcquire]
  conv_rhs => rw [← List.map_id ops]
  apply List.map_congr_left
  intro op hop
  simp [Operation.acquireOf_of_isAcquire_false (h op hop)]

/-- A change of the one ACQUIRE of a pair, where it stands. -/
theorem OpsUnit.updateAcquire_of_split {u : OpsUnit} {before after : List Operation} {tag : Byte} {a : Acquire}
    (f : Acquire → Acquire) (h : u.live = before ++ ⟨tag, .acquire a⟩ :: after)
    (hn : ∀ op ∈ before ++ after, op.isAcquire a.owner a.lock = false) :
    u.updateAcquire a.owner a.lock f = { u with live := before ++ ⟨tag, .acquire (f a)⟩ :: after } := by
  have hb := updateAcquire_map_id a.owner a.lock f before fun op h => hn op (by simp [h])
  have ha := updateAcquire_map_id a.owner a.lock f after fun op h => hn op (by simp [h])
  simp only [OpsUnit.updateAcquire] at hb ha ⊢
  rw [h, List.map_append, List.map_cons, hb, ha]
  simp

/-- The first operation that fits completes: its entry goes and its reply enters the tail of the reply queue. -/
theorem State.complete_of_split {s : State} {before after : List Operation} {op : Operation} {fits : Operation → Bool}
    (code : ResultCode) (h : s.ops.live = before ++ op :: after) (hb : ∀ x ∈ before, fits x = false)
    (hf : fits op = true) :
    s.complete fits code =
      { s with
        ops := { s.ops with live := before ++ after }
        port := { s.port with replies := s.port.replies ++ [⟨op.tag, op.body.kind, code, []⟩] } } := by
  have h1 : s.ops.live.find? fits = some op := by
    rw [h, List.find?_append, List.find?_eq_none.2 (by simpa using hb)]
    simp [hf]
  have h2 : s.ops.live.eraseP fits = before ++ after := by
    rw [h, List.eraseP_append_right _ (by simpa using hb)]
    simp [hf]
  simp [State.complete, h1, h2, State.withOps, State.reply, State.withPort]

/-- Where no live operation fits, nothing completes. -/
theorem State.complete_of_none {s : State} {fits : Operation → Bool} (code : ResultCode)
    (h : ∀ op ∈ s.ops.live, fits op = false) : s.complete fits code = s := by
  have : s.ops.live.find? fits = none := List.find?_eq_none.2 (by simpa using h)
  simp [State.complete, this]

/-- An ACQUIRE without a CANCEL completes alone. -/
theorem State.completeAcquire_alone {s : State} {before after : List Operation} {tag : Byte} {a : Acquire}
    (code cancelCode : ResultCode) (h : s.ops.live = before ++ ⟨tag, .acquire a⟩ :: after)
    (hb : ∀ op ∈ before, op.isAcquire a.owner a.lock = false) (ha : a.attached = false) :
    s.completeAcquire a.owner a.lock code cancelCode =
      { s with
        ops := { s.ops with live := before ++ after }
        port := { s.port with replies := s.port.replies ++ [⟨tag, .acquire, code, []⟩] } } := by
  simp only [State.completeAcquire, OpsUnit.acquire_of_split h hb, ha, Bool.false_eq_true, if_false]
  rw [State.complete_of_split code h hb (by simp)]
  simp [OpBody.kind]

/-- An ACQUIRE completes with its CANCEL directly after it. -/
theorem State.completeAcquire_attached {s : State} {before p q : List Operation} {tag ct : Byte} {a : Acquire}
    (code cancelCode : ResultCode)
    (h : s.ops.live = before ++ ⟨tag, .acquire a⟩ :: (p ++ ⟨ct, .cancel a.owner a.lock⟩ :: q))
    (hb : ∀ op ∈ before, op.isAcquire a.owner a.lock = false ∧ op.isCancel a.owner a.lock = false)
    (hp : ∀ op ∈ p, op.isCancel a.owner a.lock = false) (ha : a.attached = true) :
    s.completeAcquire a.owner a.lock code cancelCode =
      { s with
        ops := { s.ops with live := before ++ (p ++ q) }
        port := { s.port with
          replies := s.port.replies ++ [⟨tag, .acquire, code, []⟩, ⟨ct, .cancel, cancelCode, []⟩] } } := by
  simp only [State.completeAcquire, OpsUnit.acquire_of_split h (fun op h => (hb op h).1), ha, if_true]
  rw [State.complete_of_split code h (fun op h => (hb op h).1) (by simp)]
  rw [State.complete_of_split (before := before ++ p) (after := q) (op := ⟨ct, .cancel a.owner a.lock⟩) cancelCode
    (by simp) (by
      intro x hx
      rcases List.mem_append.1 hx with hx | hx
      · exact (hb x hx).2
      · exact hp x hx) (by simp)]
  simp [OpBody.kind]

/-! ### Several completions in one event -/

theorem Operation.attachedCancel_some {op c : Operation} {behind : List Operation}
    (h : op.attachedCancel behind = some c) :
    ∃ a between after, op.body = .acquire a ∧ a.attached = true ∧ c.body = .cancel a.owner a.lock
      ∧ behind = between ++ c :: after ∧ (∀ x ∈ between, x.body ≠ .cancel a.owner a.lock) := by
  unfold Operation.attachedCancel at h
  split at h
  · rename_i a ha
    split at h
    · rename_i hat
      obtain ⟨hc, between, after, hs, hb⟩ := List.find?_eq_some_iff_append.1 h
      exact ⟨a, between, after, ha, hat, by simpa [Operation.isCancel] using hc, hs,
        fun x hx => by simpa [Operation.isCancel] using hb x hx⟩
    · cases h
  · cases h

theorem Operation.attachedCancel_none {op : Operation} {behind : List Operation}
    (h : op.attachedCancel behind = none) (a : Acquire) (ha : op.body = .acquire a) (hat : a.attached = true) :
    ∀ c ∈ behind, c.body ≠ .cancel a.owner a.lock := by
  simpa [Operation.attachedCancel, ha, hat, Operation.isCancel] using h

/-- The operations that complete and those that stay, in the words of the statements. -/
theorem completions_completed (fits : Operation → Bool) :
    ∀ (n : Nat) (live : List Operation), live.length ≤ n →
      Safety.Completed (fun op => fits op = true) live (completions fits n live).1 (completions fits n live).2
  | 0, live, h => by
    obtain rfl : live = [] := List.length_eq_zero_iff.1 (Nat.le_zero.1 h)
    exact .nil
  | n + 1, [], _ => .nil
  | n + 1, op :: behind, h => by
    have hl : behind.length ≤ n := by simpa using h
    by_cases hf : fits op = true
    · cases hc : op.attachedCancel behind with
      | none =>
        simp only [completions, hf, hc, if_true]
        exact .alone op behind _ _ hf (fun a ha hat => Operation.attachedCancel_none hc a ha hat)
          (completions_completed fits n behind hl)
      | some c =>
        obtain ⟨a, between, after, ha, hat, hcb, rfl, hb⟩ := Operation.attachedCancel_some hc
        have he : (between ++ c :: after).erase c = between ++ after := by
          have : c ∉ between := fun hm => hb c hm hcb
          simp [List.erase_append_right _ this]
        have hr := completions_completed fits n (between ++ after) (by simp at hl ⊢; omega)
        simp only [completions, hf, hc, if_true, he]
        obtain ⟨tag, body⟩ := op
        obtain ⟨ct, cbody⟩ := c
        obtain rfl : body = .acquire a := ha
        obtain rfl : cbody = .cancel a.owner a.lock := hcb
        exact .withCancel tag ct a between after _ _ hf hat hb hr
    · simp only [completions, hf]
      exact .stays op behind _ _ hf (completions_completed fits n behind hl)

/-! ### Requests -/

/-- A request that stands is taken: NOT_CONFIGURED before SETUP, or its decision. -/
theorem State.takeRequest_standing {s : State} {k : RequestKind} {bytes : List Byte}
    (decision : List Byte → State → State) (h : s.port.buffer = .complete k bytes)
    (hl : s.ops.live.length + s.port.replies.length < 32) :
    s.takeRequest k decision =
      if s.join.state = .unconfigured ∧ k.beforeSetup = false then
        (s.setBuffer .empty).answer k bytes .notConfigured []
      else decision bytes (s.setBuffer .empty) := by
  simp [State.takeRequest, State.takable, h, State.operationLoad, Config.operationLimit, hl]

/-- No request is taken that does not stand. -/
theorem State.takeRequest_waiting {s : State} {k : RequestKind} (decision : List Byte → State → State)
    (h : 32 ≤ s.ops.live.length + s.port.replies.length ∨ ∀ bytes, s.port.buffer ≠ .complete k bytes) :
    s.takeRequest k decision = s := by
  unfold State.takeRequest State.takable
  cases hb : s.port.buffer with
  | empty => rfl
  | filling k' bytes => rfl
  | complete k' bytes =>
    have : ¬ (k' = k ∧ s.operationLoad < Config.operationLimit) := by
      rintro ⟨rfl, hl⟩
      rcases h with h | h
      · simp only [State.operationLoad, Config.operationLimit] at hl
        omega
      · exact h bytes hb
    simp [this]

end Sys2Proof.Machine
end

