-- ==== Sys2Proof/Laws/Completion.lean ====
section
/-! SUPPORT. Completions, phase changes, removals and the entry into MEMBER, in the words of the statements. -/
namespace Sys2Proof.Machine
open Sys2Proof.Safety

theorem Sched.take_eq_itemGone (c : Sched) (id : ItemId) : c.take id = itemGone c id := by
  simp [Sched.take, itemGone]

/-- The table finds the ACQUIRE that lives for a pair. -/
theorem OpsUnit.acquire_of_lives {u : OpsUnit} {tag : Byte} {a : Acquire} {cancel : Option Byte}
    {others : List Operation} (h : AcquireLives u.live tag a cancel others) :
    u.acquire a.owner a.lock = some a := by
  obtain ⟨_, _, h1, h2, _⟩ := h
  exact OpsUnit.acquire_of_split h1 fun op hop => (h2 op hop).1

/-- An ACQUIRE completes, its CANCEL directly after it. -/
theorem State.completeAcquire_of_lives {s : State} {tag : Byte} {a : Acquire} {cancel : Option Byte}
    {others : List Operation} (code cancelCode : ResultCode) (h : AcquireLives s.ops.live tag a cancel others) :
    s.completeAcquire a.owner a.lock code cancelCode =
      { s with
        ops := { s.ops with live := others }
        port := { s.port with replies := s.port.replies ++ pairReplies tag code cancel cancelCode } } := by
  obtain ⟨b, after, h1, h2, h3⟩ := h
  cases cancel with
  | none =>
    obtain ⟨ha, rfl⟩ := h3
    rw [State.completeAcquire_alone code cancelCode h1 (fun op hop => (h2 op hop).1) ha]
    rfl
  | some ct =>
    obtain ⟨ha, p, q, rfl, h4, rfl⟩ := h3
    rw [State.completeAcquire_attached code cancelCode h1 h2 h4 ha]
    rfl

/-- The ACQUIRE of a pair is found, and a change of it is a change of its entry alone. -/
theorem OpsUnit.of_becomes {u : OpsUnit} {live' : List Operation} {a : Acquire} {f : Acquire → Acquire}
    (h : AcquireBecomes u.live live' a (f a)) :
    u.acquire a.owner a.lock = some a ∧ u.updateAcquire a.owner a.lock f = { u with live := live' } := by
  obtain ⟨b, after, tag, h1, h2, rfl⟩ := h
  exact ⟨OpsUnit.acquire_of_split h1 fun op hop => h2 op (by simp [hop]), OpsUnit.updateAcquire_of_split f h1 h2⟩

/-- A live JOIN completes with DONE, where there is one. -/
theorem State.completeJoin_cases (s : State) :
    ∃ live replies,
      s.completeJoin =
        { s with
          ops := { s.ops with live := live }
          port := { s.port with replies := s.port.replies ++ replies } }
      ∧ (((∀ op ∈ s.ops.live, op.body ≠ .join) ∧ live = s.ops.live ∧ replies = [])
        ∨ ∃ before after tag, s.ops.live = before ++ ⟨tag, .join⟩ :: after ∧ (∀ op ∈ before, op.body ≠ .join)
            ∧ live = before ++ after ∧ replies = [⟨tag, .join, .done, []⟩]) := by
  by_cases hj : ∀ op ∈ s.ops.live, op.body ≠ .join
  · refine ⟨s.ops.live, [], ?_, .inl ⟨hj, rfl, rfl⟩⟩
    rw [State.completeJoin, State.complete_of_none]
    · simp
    · simpa using hj
  · have hf : (s.ops.live.find? fun op => op.body = .join) ≠ none := by
      simpa only [ne_eq, List.find?_eq_none, decide_eq_true_eq] using hj
    obtain ⟨⟨tag, body⟩, hop⟩ := Option.ne_none_iff_exists'.1 hf
    obtain ⟨h1, b, a, h2, h3⟩ := List.find?_eq_some_iff_append.1 hop
    obtain rfl : body = .join := by simpa using h1
    refine ⟨b ++ a, [⟨tag, .join, .done, []⟩], ?_, .inr ⟨b, a, tag, h2, by simpa using h3, rfl, rfl⟩⟩
    rw [State.completeJoin, State.complete_of_split (op := ⟨tag, .join⟩) .done h2 (by simpa using h3) (by simp)]
    rfl

/-- The entry into MEMBER, in the words of the statements. -/
theorem State.becomeMember_enters (s : State) : EntersMember s s.becomeMember := by
  have hcode : s.join.state.code = StationState.member.code ↔ s.join.state = .member := by
    cases s.join.state <;> simp [StationState.code]
  have he : (s.enter .member).setJoinWait .stopped =
      { s with
        join := { s.join with state := .member, joinWait := .stopped }
        port := { s.port with
          attention := if s.join.state = .member then s.port.attention else s.port.attention ||| 1 } } := by
    simp only [State.enter, hcode]
    split <;> simp [State.setJoinWait, State.withJoin, State.attend, State.withPort, HostPort.raise, attState]
  obtain ⟨live, replies, hc, hd⟩ := ((s.enter .member).setJoinWait .stopped).completeJoin_cases
  have hops : ((s.enter .member).setJoinWait .stopped).ops = s.ops := by rw [he]
  rw [hops] at hd
  unfold State.becomeMember EntersMember
  rw [hc, he]
  simp only [State.evaluateDuty, State.withJoin, State.self, decide_true, Bool.true_and]
  generalize (decide (s.replica.donor = some s.straps.station) && s.replica.joinList.head?.isSome) = duty
  cases duty <;> cases hh : s.sched.holds (.control .donor)
  · exact ⟨live, replies, s.sched, hd, by simp, by simp, by simp, by simp, by simp, by simp⟩
  · by_cases ho : s.sched.onLine = .item (.control .donor)
    · refine ⟨live, replies, { s.sched with rescinded := true }, hd, ?_⟩
      simp [ho, State.askRemoval, Sched.remove_on_line, State.withSched]
    · refine ⟨live, replies, itemGone s.sched (.control .donor), hd, ?_⟩
      simp [ho, hh, State.askRemoval, Sched.remove_listed, State.withSched, Sched.take_eq_itemGone]
  · refine ⟨live, replies, { s.sched with control := s.sched.control ++ [.donor] }, hd, ?_⟩
    simp [State.queueControl, State.withSched, Sched.queueControl_new s.sched .donor hh]
  · refine ⟨live, replies, s.sched, hd, ?_⟩
    simp [State.queueControl, State.withSched, Sched.queueControl_held s.sched .donor hh]

end Sys2Proof.Machine
end

