-- ==== Sys2Proof/Laws/Line.lean ====
section
/-! SUPPORT. The line states that wait for the gap or count for the idle measure, and the end of a frame at a receiver:
what stands beyond the bits of a frame is not taken with them. -/
namespace Sys2Proof.Machine

/-- The line states that LINE_IDLE_GAP acts on (03 R50, Table 3-1). -/
@[simp] theorem LineState.awaitsGap_iff (l : LineState) :
    l.awaitsGap = true ↔ l = .unobserved ∨ l = .vetoGap ∨ l = .idle := by cases l <;> simp [LineState.awaitsGap]

@[simp] theorem levelOfBit_bitOfLevel (l : Level) : levelOfBit (bitOfLevel l) = l := by cases l <;> rfl

@[simp] theorem bitOfLevel_levelOfBit (b : Bool) : bitOfLevel (levelOfBit b) = b := by cases b <;> rfl

/-- With no data bit left and no inserted bit due, no further bit is the frame's. -/
theorem takeLineBits_done (prev : Bool) (run : Nat) (h : run ≠ 5) (more : List Bool) :
    takeLineBits prev run 0 more = [] := by
  cases more <;> simp [takeLineBits, h]

/-- The idle measure counts a tick in IDLE, and on an unobserved line that is quiet (10 R181). -/
@[simp] theorem Pli.countsIdle_iff (p : Pli) (quiet : Bool) :
    p.countsIdle quiet = true ↔ p.line = .idle ∨ (p.line = .unobserved ∧ quiet = true) := by simp [Pli.countsIdle]

/-- When a winner sends (03 R54). -/
@[simp] theorem State.bidStands_iff (s : State) :
    s.bidStands = true ↔ s.pli.ownSlot = some true ∧ s.join.state.participant = true ∧ s.pli.forfeited = false := by
  simp [State.bidStands, and_assoc]

/-- Which items the Join Controller is told of (06 R102, R105). -/
theorem Sched.telling_eq (c : Sched) (e : ItemEnd) :
    c.telling e =
      if c.rescinded = true ∧ c.onLine = .item (.control .membership) then some ⟨.membership, e⟩
      else if c.rescinded = true ∧ c.onLine = .item (.control .donor) then some ⟨.donor, e⟩
      else none := by
  unfold Sched.telling
  split
  · simp_all
  · simp_all
  · next h₁ h₂ => rw [if_neg fun h => h₁ h.1 h.2, if_neg fun h => h₂ h.1 h.2]

/-- The bits that a sender drives for some data bits are those that a receiver takes for as many. -/
theorem takeLineBits_insertBits (bits : List Bool) :
    ∀ (prev : Bool) (run : Nat) (more : List Bool),
      takeLineBits prev run bits.length (insertBits prev run bits ++ more) = insertBits prev run bits := by
  induction bits with
  | nil =>
    intro prev run more
    by_cases h : run = 5
    · simp [insertBits, h, takeLineBits, takeLineBits_done]
    · simp [insertBits, h, takeLineBits_done]
  | cons b bs ih =>
    intro prev run more
    by_cases h : run = 5
    · subst h
      simp [insertBits, takeLineBits, ih]
    · simp [insertBits, h, takeLineBits, ih]

end Sys2Proof.Machine
end

