-- ==== Sys2Proof/Laws/Presence.lean ====
section
/-! SUPPORT. One hand-over at the Presence Monitor: what becomes of the EVICT items, of LONE and of the countdowns. -/
namespace Sys2Proof.Machine

/-- The name of the EVICT item for v. -/
abbrev evictId (v : Station) : ItemId := .control (.evict v)

/-- The removals of the EVICTs of some stations, at the scheduler. -/
def Sched.removeEvictsOf (p : Station → Bool) (vs : List Station) (c : Sched) : Sched :=
  vs.foldl (fun c v => if p v then (c.remove (evictId v)).1 else c) c

theorem Sched.holds_evict_take (c : Sched) (v w : Station) (h : w ≠ v) :
    (c.take (evictId v)).holds (evictId w) = c.holds (evictId w) :=
  Sched.take_holds_other _ _ _ (by simp [h])

/-- A control item that leaves its list leaves the lock list alone. -/
theorem Sched.take_locks (c : Sched) (p : Purpose) : (c.take (.control p)).locks = c.locks := by
  have h : ∀ i : LockItem, i.id ≠ .control p := by intro i; cases i <;> simp [LockItem.id]
  simp [Sched.take, h]

/-- What the removals of some EVICTs do: one on the line is rescinded, the others leave the control list. -/
theorem Sched.removeEvictsOf_spec (p : Station → Bool) (vs : List Station) : ∀ c : Sched,
    let d := c.removeEvictsOf p vs
    d.locks = c.locks ∧ d.onLine = c.onLine ∧ d.held = c.held
    ∧ (d.rescinded = true ↔ c.rescinded = true ∨ ∃ v ∈ vs, p v = true ∧ c.onLine = .item (evictId v))
    ∧ (∀ v ∈ vs, p v = true → c.onLine ≠ .item (evictId v) → c.holds (evictId v) = true →
        c.retry = some (evictId v) → d.retry = none)
    ∧ ((∀ v ∈ vs, p v = true → c.retry ≠ some (evictId v)) → d.retry = c.retry)
    ∧ d.control = c.control.filter fun i =>
        !vs.any fun v => p v && !decide (c.onLine = .item (evictId v)) && decide (i.purpose = .evict v) := by
  induction vs with
  | nil => intro c; simp [Sched.removeEvictsOf]
  | cons w ws ih =>
    intro c
    have hd : c.removeEvictsOf p (w :: ws) = (if p w then (c.remove (evictId w)).1 else c).removeEvictsOf p ws := rfl
    rw [hd]
    by_cases hp : p w = true
    swap
    · have := ih c
      simp only [Bool.not_eq_true] at hp
      simpa [hp] using this
    simp only [hp, if_true]
    by_cases ho : c.onLine = .item (evictId w)
    · rw [Sched.remove_on_line c _ ho]
      obtain ⟨h1, h2, h3, h4, h5, h6, h7⟩ := ih { c with rescinded := true }
      refine ⟨h1, h2, h3, ?_, ?_, ?_, ?_⟩
      · exact ⟨fun _ => .inr ⟨w, by simp, hp, ho⟩, fun _ => h4.2 (.inl rfl)⟩
      · intro v hv hpv hov hh hr
        rcases List.mem_cons.1 hv with rfl | hv
        · exact absurd ho hov
        · exact h5 v hv hpv hov hh hr
      · intro h; exact h6 fun v hv => h v (by simp [hv])
      · rw [h7]
        congr 1; funext i
        simp [ho]
    · cases hh : c.holds (evictId w)
      · rw [Sched.remove_absent c _ ho hh]
        obtain ⟨h1, h2, h3, h4, h5, h6, h7⟩ := ih c
        refine ⟨h1, h2, h3, ?_, ?_, ?_, ?_⟩
        · simp [h4, hp, ho]
        · intro v hv hpv hov hhv hr
          rcases List.mem_cons.1 hv with rfl | hv
          · rw [hh] at hhv; cases hhv
          · exact h5 v hv hpv hov hhv hr
        · intro h; exact h6 fun v hv => h v (by simp [hv])
        · rw [h7]
          apply List.filter_congr
          intro i hi
          have : i.purpose ≠ .evict w := by
            intro hpi
            have := (c.holds_control (.evict w)).2 ⟨i, hi, hpi⟩
            rw [hh] at this; cases this
          simp [this]
      · rw [Sched.remove_listed c _ ho hh]
        obtain ⟨h1, h2, h3, h4, h5, h6, h7⟩ := ih (c.take (evictId w))
        have hro : (c.take (evictId w)).onLine = c.onLine := rfl
        have hrr : (c.take (evictId w)).rescinded = c.rescinded := rfl
        have hrt : (c.take (evictId w)).retry = if c.retry = some (evictId w) then none else c.retry := rfl
        refine ⟨h1.trans (c.take_locks _), h2, h3, ?_, ?_, ?_, ?_⟩
        · simp [h4, hp, ho, hro, hrr]
        · intro v hv hpv hov hhv hr
          by_cases hvw : v = w
          · subst hvw
            have e : (c.take (evictId v)).retry = none := by simp [hrt, hr]
            show (removeEvictsOf p ws (c.take (evictId v))).retry = none
            rw [h6, e]; intro u _ _; simp [e]
          · rcases List.mem_cons.1 hv with rfl | hv
            · exact absurd rfl hvw
            · refine h5 v hv hpv hov ?_ ?_
              · rw [c.holds_evict_take w v hvw]; exact hhv
              · rw [hrt, if_neg]; exact hr
                rw [hr]; simp [hvw]
        · intro h
          have hw := h w (by simp) hp
          have e : (c.take (evictId w)).retry = c.retry := by rw [hrt, if_neg hw]
          show (removeEvictsOf p ws (c.take (evictId w))).retry = _
          rw [h6, e]
          intro v hv hpv; rw [e]; exact h v (by simp [hv]) hpv
        · show (removeEvictsOf p ws (c.take (evictId w))).control = _
          rw [h7, hro]
          have : (c.take (evictId w)).control = c.control.filter fun i => !decide (i.id = evictId w) := rfl
          rw [this, List.filter_filter]
          congr 1; funext i
          have : (i.id = evictId w) ↔ i.purpose = .evict w := by simp [ControlItem.id]
          simp [this, hp, ho, Bool.and_comm]

theorem State.askRemoval_evicts (p : Station → Bool) (vs : List Station) : ∀ s : State,
    vs.foldl (fun s v => if p v then s.askRemoval (evictId v) else s) s
      = { s with sched := s.sched.removeEvictsOf p vs } := by
  induction vs with
  | nil => intro s; rfl
  | cons w ws ih =>
    intro s
    simp only [List.foldl_cons]
    rw [ih]
    by_cases hp : p w = true <;> simp [hp, State.askRemoval, State.withSched, Sched.removeEvictsOf]

theorem State.removeEvicts_eq (s : State) (h : MonitorHandOver) :
    s.removeEvicts h =
      { s with sched := s.sched.removeEvictsOf (fun v => decide (v = h.sender ∨ h.ended v = true))
                          (List.finRange 16) } := by
  rw [← State.askRemoval_evicts]
  simp [State.removeEvicts]

/-- The re-tests queue the EVICTs of the stations that pass and have none, in their order. -/
theorem retest_fold (m : Monitor) (self : Station) (vs : List Station) (hn : vs.Nodup) : ∀ s : State,
    s.monitor = m → s.self = self →
    vs.foldl (fun s v => if v ≠ s.self ∧ s.monitor.countdowns[v] = .expired then s.testEviction v else s) s
      = { s with
          sched := { s.sched with
            control := s.sched.control ++
              (vs.filter fun v => decide (v ≠ self) && decide (m.countdowns[v] = .expired) && m.thirdRunning self v
                && !s.sched.holds (evictId v)).map fun v => .evict v m.counts[v] } } := by
  induction vs with
  | nil => intro s _ _; simp
  | cons w ws ih =>
    intro s hm hs
    have hn' := (List.nodup_cons.1 hn)
    simp only [List.foldl_cons]
    by_cases hc : w ≠ self ∧ m.countdowns[w] = .expired ∧ m.thirdRunning self w = true
        ∧ s.sched.holds (evictId w) = false
    · obtain ⟨a, b, c, d⟩ := hc
      have e : (if w ≠ s.self ∧ s.monitor.countdowns[w] = .expired then s.testEviction w else s)
          = { s with sched := { s.sched with control := s.sched.control ++ [.evict w m.counts[w]] } } := by
        rw [hm, hs, if_pos ⟨a, b⟩]
        simp only [State.testEviction, hm, hs, c, if_true, State.queueEvict, State.queueControl, State.withSched]
        rw [Sched.queueControl_new _ _ d]
      rw [e]
      refine (ih hn'.2 { s with sched := { s.sched with control := s.sched.control ++ [.evict w m.counts[w]] } }
        hm hs).trans ?_
      have hh : ∀ v ∈ ws, ({ s.sched with control := s.sched.control ++ [.evict w m.counts[w]] } : Sched).holds
          (evictId v) = s.sched.holds (evictId v) := by
        intro v hv
        have : v ≠ w := by rintro rfl; exact hn'.1 hv
        simp [Sched.holds, ControlItem.id, ControlItem.purpose, Ne.symm this]
      simp only
      congr 2
      rw [List.filter_cons, if_pos (by simp [a, b, c, d])]
      rw [List.filter_congr (fun v hv => by rw [hh v hv])]
      simp
    · have e : (if w ≠ s.self ∧ s.monitor.countdowns[w] = .expired then s.testEviction w else s) = s := by
        rw [hm, hs]
        by_cases h1 : w ≠ self ∧ m.countdowns[w] = .expired
        · rw [if_pos h1]
          simp only [State.testEviction, hm, hs]
          by_cases h2 : m.thirdRunning self w = true
          · have : s.sched.holds (evictId w) = true := by
              cases h : s.sched.holds (evictId w)
              · exact absurd ⟨h1.1, h1.2, h2, h⟩ hc
              · rfl
            rw [if_pos h2]
            simp only [State.queueEvict, State.queueControl, State.withSched]
            rw [Sched.queueControl_held _ _ this]
          · rw [if_neg h2]
        · rw [if_neg h1]
      rw [e]
      refine (ih hn'.2 s hm hs).trans ?_
      rw [List.filter_cons, if_neg]
      intro h
      apply hc
      simp only [Bool.and_eq_true, decide_eq_true_eq, Bool.not_eq_true'] at h
      exact ⟨h.1.1.1, h.1.1.2, h.1.2, h.2⟩

/-- LONE after a hand-over, with the LONE reason where it changes. -/
theorem State.clearLone_eq (s : State) (h : MonitorHandOver) :
    s.clearLone h =
      { s with
        monitor := { s.monitor with
          lone := s.monitor.lone && decide (h.sender = s.straps.station) && s.replica.namesOther s.straps.station }
        port :=
          if s.monitor.lone = true
              ∧ (h.sender ≠ s.straps.station ∨ s.replica.namesOther s.straps.station = false) then
            { s.port with attention := s.port.attention ||| 8 }
          else s.port } := by
  unfold State.clearLone
  by_cases hc : s.monitor.lone = true ∧ (h.sender ≠ s.self ∨ s.replica.namesOther s.self = false)
  · rw [if_pos hc]
    have hc' : s.monitor.lone = true
        ∧ (h.sender ≠ s.straps.station ∨ s.replica.namesOther s.straps.station = false) := hc
    obtain ⟨h1, h2⟩ := hc'
    simp only [State.setLone, h1, h2]
    rcases h2 with h2 | h2 <;> simp [h2, State.withMonitor, State.attend, State.withPort, HostPort.raise, attLone]
  · rw [if_neg hc]
    have hc' : ¬ (s.monitor.lone = true
        ∧ (h.sender ≠ s.straps.station ∨ s.replica.namesOther s.straps.station = false)) := hc
    rw [if_neg hc']
    have : (s.monitor.lone && decide (h.sender = s.straps.station) && s.replica.namesOther s.straps.station)
        = s.monitor.lone := by
      cases hl : s.monitor.lone
      · rfl
      · simp [hl] at hc'; simp [hc']
    rw [this]

/-- Some countdown becomes RUNNING with the hand-over: created, or loaded. -/
theorem State.becomesRunning_iff (s : State) (h : MonitorHandOver) :
    ((List.finRange 16).any fun v => s.countdownCreated h v || s.countdownLoaded h v) = true ↔
      ∃ v : Station, v ≠ s.straps.station ∧ ¬ (v, RecordTag.absent) ∈ h.changes
        ∧ if s.monitor.countdowns[v] = .stopped then s.replica.fabric ≠ none ∧ v ∈ h.changes.map Prod.fst
          else v = h.sender := by
  simp only [List.any_eq_true, List.mem_finRange, true_and]
  refine exists_congr fun v => ?_
  have he : h.ended v = true ↔ (v, RecordTag.absent) ∈ h.changes := by simp [MonitorHandOver.ended]
  have hch : (v, RecordTag.absent) ∉ h.changes → (h.changed v = true ↔ v ∈ h.changes.map Prod.fst) := by
    intro hn
    simp only [MonitorHandOver.changed, List.any_eq_true, List.mem_map]
    constructor
    · rintro ⟨c, hc, h⟩; simp at h; exact ⟨c, hc, h.1⟩
    · rintro ⟨c, hc, rfl⟩
      refine ⟨c, hc, ?_⟩
      simp
      intro h0; apply hn; rw [← h0]; exact hc
  by_cases hn : (v, RecordTag.absent) ∈ h.changes
  · have := he.2 hn
    simp [State.countdownCreated, State.countdownLoaded, this, hn]
  · have h1 : h.ended v = false := by rw [Bool.eq_false_iff]; intro h; exact hn (he.1 h)
    have h2 := hch hn
    by_cases hs : s.monitor.countdowns[v] = .stopped
    · rw [if_pos hs]
      have : s.countdownLoaded h v = false := by simp only [State.countdownLoaded, hs]; simp
      rw [this]
      simp only [State.countdownCreated, h1, hs]
      simp [h2, hn, Option.isSome_iff_ne_none, State.self]
      tauto
    · rw [if_neg hs]
      have : s.countdownCreated h v = false := by simp only [State.countdownCreated, hs]; simp
      rw [this]
      simp only [State.countdownLoaded, h1, hs]
      simp [hn, State.self]
      tauto
end Sys2Proof.Machine
end

