-- ==== Sys2Proof/Laws/State.lean ====
section
/-! SUPPORT. The named updates of State: each reads back what it wrote and leaves every other field alone. -/
namespace Sys2Proof.Machine

@[simp] theorem State.withResetHeld_resetHeld (s : State) (x : Bool) : (s.withResetHeld x).resetHeld = x := rfl
@[simp] theorem State.withResetHeld_straps (s : State) (x : Bool) : (s.withResetHeld x).straps = s.straps := rfl
@[simp] theorem State.withResetHeld_settings (s : State) (x : Bool) : (s.withResetHeld x).settings = s.settings := rfl
@[simp] theorem State.withResetHeld_edgeTaken (s : State) (x : Bool) : (s.withResetHeld x).edgeTaken = s.edgeTaken := rfl
@[simp] theorem State.withResetHeld_pli (s : State) (x : Bool) : (s.withResetHeld x).pli = s.pli := rfl
@[simp] theorem State.withResetHeld_intake (s : State) (x : Bool) : (s.withResetHeld x).intake = s.intake := rfl
@[simp] theorem State.withResetHeld_replica (s : State) (x : Bool) : (s.withResetHeld x).replica = s.replica := rfl
@[simp] theorem State.withResetHeld_sched (s : State) (x : Bool) : (s.withResetHeld x).sched = s.sched := rfl
@[simp] theorem State.withResetHeld_ops (s : State) (x : Bool) : (s.withResetHeld x).ops = s.ops := rfl
@[simp] theorem State.withResetHeld_monitor (s : State) (x : Bool) : (s.withResetHeld x).monitor = s.monitor := rfl
@[simp] theorem State.withResetHeld_join (s : State) (x : Bool) : (s.withResetHeld x).join = s.join := rfl
@[simp] theorem State.withResetHeld_port (s : State) (x : Bool) : (s.withResetHeld x).port = s.port := rfl
@[simp] theorem State.withResetHeld_hand (s : State) (x : Bool) : (s.withResetHeld x).hand = s.hand := rfl
@[simp] theorem State.withResetHeld_freeReads (s : State) (x : Bool) : (s.withResetHeld x).freeReads = s.freeReads := rfl
@[simp] theorem State.withResetHeld_pending (s : State) (x : Bool) : (s.withResetHeld x).pending = s.pending := rfl

@[simp] theorem State.withEdgeTaken_resetHeld (s : State) (x : Bool) : (s.withEdgeTaken x).resetHeld = s.resetHeld := rfl
@[simp] theorem State.withEdgeTaken_straps (s : State) (x : Bool) : (s.withEdgeTaken x).straps = s.straps := rfl
@[simp] theorem State.withEdgeTaken_settings (s : State) (x : Bool) : (s.withEdgeTaken x).settings = s.settings := rfl
@[simp] theorem State.withEdgeTaken_edgeTaken (s : State) (x : Bool) : (s.withEdgeTaken x).edgeTaken = x := rfl
@[simp] theorem State.withEdgeTaken_pli (s : State) (x : Bool) : (s.withEdgeTaken x).pli = s.pli := rfl
@[simp] theorem State.withEdgeTaken_intake (s : State) (x : Bool) : (s.withEdgeTaken x).intake = s.intake := rfl
@[simp] theorem State.withEdgeTaken_replica (s : State) (x : Bool) : (s.withEdgeTaken x).replica = s.replica := rfl
@[simp] theorem State.withEdgeTaken_sched (s : State) (x : Bool) : (s.withEdgeTaken x).sched = s.sched := rfl
@[simp] theorem State.withEdgeTaken_ops (s : State) (x : Bool) : (s.withEdgeTaken x).ops = s.ops := rfl
@[simp] theorem State.withEdgeTaken_monitor (s : State) (x : Bool) : (s.withEdgeTaken x).monitor = s.monitor := rfl
@[simp] theorem State.withEdgeTaken_join (s : State) (x : Bool) : (s.withEdgeTaken x).join = s.join := rfl
@[simp] theorem State.withEdgeTaken_port (s : State) (x : Bool) : (s.withEdgeTaken x).port = s.port := rfl
@[simp] theorem State.withEdgeTaken_hand (s : State) (x : Bool) : (s.withEdgeTaken x).hand = s.hand := rfl
@[simp] theorem State.withEdgeTaken_freeReads (s : State) (x : Bool) : (s.withEdgeTaken x).freeReads = s.freeReads := rfl
@[simp] theorem State.withEdgeTaken_pending (s : State) (x : Bool) : (s.withEdgeTaken x).pending = s.pending := rfl

@[simp] theorem State.withSettings_resetHeld (s : State) (x : Option Settings) : (s.withSettings x).resetHeld = s.resetHeld := rfl
@[simp] theorem State.withSettings_straps (s : State) (x : Option Settings) : (s.withSettings x).straps = s.straps := rfl
@[simp] theorem State.withSettings_settings (s : State) (x : Option Settings) : (s.withSettings x).settings = x := rfl
@[simp] theorem State.withSettings_edgeTaken (s : State) (x : Option Settings) : (s.withSettings x).edgeTaken = s.edgeTaken := rfl
@[simp] theorem State.withSettings_pli (s : State) (x : Option Settings) : (s.withSettings x).pli = s.pli := rfl
@[simp] theorem State.withSettings_intake (s : State) (x : Option Settings) : (s.withSettings x).intake = s.intake := rfl
@[simp] theorem State.withSettings_replica (s : State) (x : Option Settings) : (s.withSettings x).replica = s.replica := rfl
@[simp] theorem State.withSettings_sched (s : State) (x : Option Settings) : (s.withSettings x).sched = s.sched := rfl
@[simp] theorem State.withSettings_ops (s : State) (x : Option Settings) : (s.withSettings x).ops = s.ops := rfl
@[simp] theorem State.withSettings_monitor (s : State) (x : Option Settings) : (s.withSettings x).monitor = s.monitor := rfl
@[simp] theorem State.withSettings_join (s : State) (x : Option Settings) : (s.withSettings x).join = s.join := rfl
@[simp] theorem State.withSettings_port (s : State) (x : Option Settings) : (s.withSettings x).port = s.port := rfl
@[simp] theorem State.withSettings_hand (s : State) (x : Option Settings) : (s.withSettings x).hand = s.hand := rfl
@[simp] theorem State.withSettings_freeReads (s : State) (x : Option Settings) : (s.withSettings x).freeReads = s.freeReads := rfl
@[simp] theorem State.withSettings_pending (s : State) (x : Option Settings) : (s.withSettings x).pending = s.pending := rfl

@[simp] theorem State.withPli_resetHeld (s : State) (x : Pli) : (s.withPli x).resetHeld = s.resetHeld := rfl
@[simp] theorem State.withPli_straps (s : State) (x : Pli) : (s.withPli x).straps = s.straps := rfl
@[simp] theorem State.withPli_settings (s : State) (x : Pli) : (s.withPli x).settings = s.settings := rfl
@[simp] theorem State.withPli_edgeTaken (s : State) (x : Pli) : (s.withPli x).edgeTaken = s.edgeTaken := rfl
@[simp] theorem State.withPli_pli (s : State) (x : Pli) : (s.withPli x).pli = x := rfl
@[simp] theorem State.withPli_intake (s : State) (x : Pli) : (s.withPli x).intake = s.intake := rfl
@[simp] theorem State.withPli_replica (s : State) (x : Pli) : (s.withPli x).replica = s.replica := rfl
@[simp] theorem State.withPli_sched (s : State) (x : Pli) : (s.withPli x).sched = s.sched := rfl
@[simp] theorem State.withPli_ops (s : State) (x : Pli) : (s.withPli x).ops = s.ops := rfl
@[simp] theorem State.withPli_monitor (s : State) (x : Pli) : (s.withPli x).monitor = s.monitor := rfl
@[simp] theorem State.withPli_join (s : State) (x : Pli) : (s.withPli x).join = s.join := rfl
@[simp] theorem State.withPli_port (s : State) (x : Pli) : (s.withPli x).port = s.port := rfl
@[simp] theorem State.withPli_hand (s : State) (x : Pli) : (s.withPli x).hand = s.hand := rfl
@[simp] theorem State.withPli_freeReads (s : State) (x : Pli) : (s.withPli x).freeReads = s.freeReads := rfl
@[simp] theorem State.withPli_pending (s : State) (x : Pli) : (s.withPli x).pending = s.pending := rfl

@[simp] theorem State.withIntake_resetHeld (s : State) (x : Intake) : (s.withIntake x).resetHeld = s.resetHeld := rfl
@[simp] theorem State.withIntake_straps (s : State) (x : Intake) : (s.withIntake x).straps = s.straps := rfl
@[simp] theorem State.withIntake_settings (s : State) (x : Intake) : (s.withIntake x).settings = s.settings := rfl
@[simp] theorem State.withIntake_edgeTaken (s : State) (x : Intake) : (s.withIntake x).edgeTaken = s.edgeTaken := rfl
@[simp] theorem State.withIntake_pli (s : State) (x : Intake) : (s.withIntake x).pli = s.pli := rfl
@[simp] theorem State.withIntake_intake (s : State) (x : Intake) : (s.withIntake x).intake = x := rfl
@[simp] theorem State.withIntake_replica (s : State) (x : Intake) : (s.withIntake x).replica = s.replica := rfl
@[simp] theorem State.withIntake_sched (s : State) (x : Intake) : (s.withIntake x).sched = s.sched := rfl
@[simp] theorem State.withIntake_ops (s : State) (x : Intake) : (s.withIntake x).ops = s.ops := rfl
@[simp] theorem State.withIntake_monitor (s : State) (x : Intake) : (s.withIntake x).monitor = s.monitor := rfl
@[simp] theorem State.withIntake_join (s : State) (x : Intake) : (s.withIntake x).join = s.join := rfl
@[simp] theorem State.withIntake_port (s : State) (x : Intake) : (s.withIntake x).port = s.port := rfl
@[simp] theorem State.withIntake_hand (s : State) (x : Intake) : (s.withIntake x).hand = s.hand := rfl
@[simp] theorem State.withIntake_freeReads (s : State) (x : Intake) : (s.withIntake x).freeReads = s.freeReads := rfl
@[simp] theorem State.withIntake_pending (s : State) (x : Intake) : (s.withIntake x).pending = s.pending := rfl

@[simp] theorem State.withReplica_resetHeld (s : State) (x : Replica) : (s.withReplica x).resetHeld = s.resetHeld := rfl
@[simp] theorem State.withReplica_straps (s : State) (x : Replica) : (s.withReplica x).straps = s.straps := rfl
@[simp] theorem State.withReplica_settings (s : State) (x : Replica) : (s.withReplica x).settings = s.settings := rfl
@[simp] theorem State.withReplica_edgeTaken (s : State) (x : Replica) : (s.withReplica x).edgeTaken = s.edgeTaken := rfl
@[simp] theorem State.withReplica_pli (s : State) (x : Replica) : (s.withReplica x).pli = s.pli := rfl
@[simp] theorem State.withReplica_intake (s : State) (x : Replica) : (s.withReplica x).intake = s.intake := rfl
@[simp] theorem State.withReplica_replica (s : State) (x : Replica) : (s.withReplica x).replica = x := rfl
@[simp] theorem State.withReplica_sched (s : State) (x : Replica) : (s.withReplica x).sched = s.sched := rfl
@[simp] theorem State.withReplica_ops (s : State) (x : Replica) : (s.withReplica x).ops = s.ops := rfl
@[simp] theorem State.withReplica_monitor (s : State) (x : Replica) : (s.withReplica x).monitor = s.monitor := rfl
@[simp] theorem State.withReplica_join (s : State) (x : Replica) : (s.withReplica x).join = s.join := rfl
@[simp] theorem State.withReplica_port (s : State) (x : Replica) : (s.withReplica x).port = s.port := rfl
@[simp] theorem State.withReplica_hand (s : State) (x : Replica) : (s.withReplica x).hand = s.hand := rfl
@[simp] theorem State.withReplica_freeReads (s : State) (x : Replica) : (s.withReplica x).freeReads = s.freeReads := rfl
@[simp] theorem State.withReplica_pending (s : State) (x : Replica) : (s.withReplica x).pending = s.pending := rfl

@[simp] theorem State.withSched_resetHeld (s : State) (x : Sched) : (s.withSched x).resetHeld = s.resetHeld := rfl
@[simp] theorem State.withSched_straps (s : State) (x : Sched) : (s.withSched x).straps = s.straps := rfl
@[simp] theorem State.withSched_settings (s : State) (x : Sched) : (s.withSched x).settings = s.settings := rfl
@[simp] theorem State.withSched_edgeTaken (s : State) (x : Sched) : (s.withSched x).edgeTaken = s.edgeTaken := rfl
@[simp] theorem State.withSched_pli (s : State) (x : Sched) : (s.withSched x).pli = s.pli := rfl
@[simp] theorem State.withSched_intake (s : State) (x : Sched) : (s.withSched x).intake = s.intake := rfl
@[simp] theorem State.withSched_replica (s : State) (x : Sched) : (s.withSched x).replica = s.replica := rfl
@[simp] theorem State.withSched_sched (s : State) (x : Sched) : (s.withSched x).sched = x := rfl
@[simp] theorem State.withSched_ops (s : State) (x : Sched) : (s.withSched x).ops = s.ops := rfl
@[simp] theorem State.withSched_monitor (s : State) (x : Sched) : (s.withSched x).monitor = s.monitor := rfl
@[simp] theorem State.withSched_join (s : State) (x : Sched) : (s.withSched x).join = s.join := rfl
@[simp] theorem State.withSched_port (s : State) (x : Sched) : (s.withSched x).port = s.port := rfl
@[simp] theorem State.withSched_hand (s : State) (x : Sched) : (s.withSched x).hand = s.hand := rfl
@[simp] theorem State.withSched_freeReads (s : State) (x : Sched) : (s.withSched x).freeReads = s.freeReads := rfl
@[simp] theorem State.withSched_pending (s : State) (x : Sched) : (s.withSched x).pending = s.pending := rfl

@[simp] theorem State.withOps_resetHeld (s : State) (x : OpsUnit) : (s.withOps x).resetHeld = s.resetHeld := rfl
@[simp] theorem State.withOps_straps (s : State) (x : OpsUnit) : (s.withOps x).straps = s.straps := rfl
@[simp] theorem State.withOps_settings (s : State) (x : OpsUnit) : (s.withOps x).settings = s.settings := rfl
@[simp] theorem State.withOps_edgeTaken (s : State) (x : OpsUnit) : (s.withOps x).edgeTaken = s.edgeTaken := rfl
@[simp] theorem State.withOps_pli (s : State) (x : OpsUnit) : (s.withOps x).pli = s.pli := rfl
@[simp] theorem State.withOps_intake (s : State) (x : OpsUnit) : (s.withOps x).intake = s.intake := rfl
@[simp] theorem State.withOps_replica (s : State) (x : OpsUnit) : (s.withOps x).replica = s.replica := rfl
@[simp] theorem State.withOps_sched (s : State) (x : OpsUnit) : (s.withOps x).sched = s.sched := rfl
@[simp] theorem State.withOps_ops (s : State) (x : OpsUnit) : (s.withOps x).ops = x := rfl
@[simp] theorem State.withOps_monitor (s : State) (x : OpsUnit) : (s.withOps x).monitor = s.monitor := rfl
@[simp] theorem State.withOps_join (s : State) (x : OpsUnit) : (s.withOps x).join = s.join := rfl
@[simp] theorem State.withOps_port (s : State) (x : OpsUnit) : (s.withOps x).port = s.port := rfl
@[simp] theorem State.withOps_hand (s : State) (x : OpsUnit) : (s.withOps x).hand = s.hand := rfl
@[simp] theorem State.withOps_freeReads (s : State) (x : OpsUnit) : (s.withOps x).freeReads = s.freeReads := rfl
@[simp] theorem State.withOps_pending (s : State) (x : OpsUnit) : (s.withOps x).pending = s.pending := rfl

@[simp] theorem State.withMonitor_resetHeld (s : State) (x : Monitor) : (s.withMonitor x).resetHeld = s.resetHeld := rfl
@[simp] theorem State.withMonitor_straps (s : State) (x : Monitor) : (s.withMonitor x).straps = s.straps := rfl
@[simp] theorem State.withMonitor_settings (s : State) (x : Monitor) : (s.withMonitor x).settings = s.settings := rfl
@[simp] theorem State.withMonitor_edgeTaken (s : State) (x : Monitor) : (s.withMonitor x).edgeTaken = s.edgeTaken := rfl
@[simp] theorem State.withMonitor_pli (s : State) (x : Monitor) : (s.withMonitor x).pli = s.pli := rfl
@[simp] theorem State.withMonitor_intake (s : State) (x : Monitor) : (s.withMonitor x).intake = s.intake := rfl
@[simp] theorem State.withMonitor_replica (s : State) (x : Monitor) : (s.withMonitor x).replica = s.replica := rfl
@[simp] theorem State.withMonitor_sched (s : State) (x : Monitor) : (s.withMonitor x).sched = s.sched := rfl
@[simp] theorem State.withMonitor_ops (s : State) (x : Monitor) : (s.withMonitor x).ops = s.ops := rfl
@[simp] theorem State.withMonitor_monitor (s : State) (x : Monitor) : (s.withMonitor x).monitor = x := rfl
@[simp] theorem State.withMonitor_join (s : State) (x : Monitor) : (s.withMonitor x).join = s.join := rfl
@[simp] theorem State.withMonitor_port (s : State) (x : Monitor) : (s.withMonitor x).port = s.port := rfl
@[simp] theorem State.withMonitor_hand (s : State) (x : Monitor) : (s.withMonitor x).hand = s.hand := rfl
@[simp] theorem State.withMonitor_freeReads (s : State) (x : Monitor) : (s.withMonitor x).freeReads = s.freeReads := rfl
@[simp] theorem State.withMonitor_pending (s : State) (x : Monitor) : (s.withMonitor x).pending = s.pending := rfl

@[simp] theorem State.withJoin_resetHeld (s : State) (x : JoinControl) : (s.withJoin x).resetHeld = s.resetHeld := rfl
@[simp] theorem State.withJoin_straps (s : State) (x : JoinControl) : (s.withJoin x).straps = s.straps := rfl
@[simp] theorem State.withJoin_settings (s : State) (x : JoinControl) : (s.withJoin x).settings = s.settings := rfl
@[simp] theorem State.withJoin_edgeTaken (s : State) (x : JoinControl) : (s.withJoin x).edgeTaken = s.edgeTaken := rfl
@[simp] theorem State.withJoin_pli (s : State) (x : JoinControl) : (s.withJoin x).pli = s.pli := rfl
@[simp] theorem State.withJoin_intake (s : State) (x : JoinControl) : (s.withJoin x).intake = s.intake := rfl
@[simp] theorem State.withJoin_replica (s : State) (x : JoinControl) : (s.withJoin x).replica = s.replica := rfl
@[simp] theorem State.withJoin_sched (s : State) (x : JoinControl) : (s.withJoin x).sched = s.sched := rfl
@[simp] theorem State.withJoin_ops (s : State) (x : JoinControl) : (s.withJoin x).ops = s.ops := rfl
@[simp] theorem State.withJoin_monitor (s : State) (x : JoinControl) : (s.withJoin x).monitor = s.monitor := rfl
@[simp] theorem State.withJoin_join (s : State) (x : JoinControl) : (s.withJoin x).join = x := rfl
@[simp] theorem State.withJoin_port (s : State) (x : JoinControl) : (s.withJoin x).port = s.port := rfl
@[simp] theorem State.withJoin_hand (s : State) (x : JoinControl) : (s.withJoin x).hand = s.hand := rfl
@[simp] theorem State.withJoin_freeReads (s : State) (x : JoinControl) : (s.withJoin x).freeReads = s.freeReads := rfl
@[simp] theorem State.withJoin_pending (s : State) (x : JoinControl) : (s.withJoin x).pending = s.pending := rfl

@[simp] theorem State.withPort_resetHeld (s : State) (x : HostPort) : (s.withPort x).resetHeld = s.resetHeld := rfl
@[simp] theorem State.withPort_straps (s : State) (x : HostPort) : (s.withPort x).straps = s.straps := rfl
@[simp] theorem State.withPort_settings (s : State) (x : HostPort) : (s.withPort x).settings = s.settings := rfl
@[simp] theorem State.withPort_edgeTaken (s : State) (x : HostPort) : (s.withPort x).edgeTaken = s.edgeTaken := rfl
@[simp] theorem State.withPort_pli (s : State) (x : HostPort) : (s.withPort x).pli = s.pli := rfl
@[simp] theorem State.withPort_intake (s : State) (x : HostPort) : (s.withPort x).intake = s.intake := rfl
@[simp] theorem State.withPort_replica (s : State) (x : HostPort) : (s.withPort x).replica = s.replica := rfl
@[simp] theorem State.withPort_sched (s : State) (x : HostPort) : (s.withPort x).sched = s.sched := rfl
@[simp] theorem State.withPort_ops (s : State) (x : HostPort) : (s.withPort x).ops = s.ops := rfl
@[simp] theorem State.withPort_monitor (s : State) (x : HostPort) : (s.withPort x).monitor = s.monitor := rfl
@[simp] theorem State.withPort_join (s : State) (x : HostPort) : (s.withPort x).join = s.join := rfl
@[simp] theorem State.withPort_port (s : State) (x : HostPort) : (s.withPort x).port = x := rfl
@[simp] theorem State.withPort_hand (s : State) (x : HostPort) : (s.withPort x).hand = s.hand := rfl
@[simp] theorem State.withPort_freeReads (s : State) (x : HostPort) : (s.withPort x).freeReads = s.freeReads := rfl
@[simp] theorem State.withPort_pending (s : State) (x : HostPort) : (s.withPort x).pending = s.pending := rfl

@[simp] theorem State.withHand_resetHeld (s : State) (x : HandOvers) : (s.withHand x).resetHeld = s.resetHeld := rfl
@[simp] theorem State.withHand_straps (s : State) (x : HandOvers) : (s.withHand x).straps = s.straps := rfl
@[simp] theorem State.withHand_settings (s : State) (x : HandOvers) : (s.withHand x).settings = s.settings := rfl
@[simp] theorem State.withHand_edgeTaken (s : State) (x : HandOvers) : (s.withHand x).edgeTaken = s.edgeTaken := rfl
@[simp] theorem State.withHand_pli (s : State) (x : HandOvers) : (s.withHand x).pli = s.pli := rfl
@[simp] theorem State.withHand_intake (s : State) (x : HandOvers) : (s.withHand x).intake = s.intake := rfl
@[simp] theorem State.withHand_replica (s : State) (x : HandOvers) : (s.withHand x).replica = s.replica := rfl
@[simp] theorem State.withHand_sched (s : State) (x : HandOvers) : (s.withHand x).sched = s.sched := rfl
@[simp] theorem State.withHand_ops (s : State) (x : HandOvers) : (s.withHand x).ops = s.ops := rfl
@[simp] theorem State.withHand_monitor (s : State) (x : HandOvers) : (s.withHand x).monitor = s.monitor := rfl
@[simp] theorem State.withHand_join (s : State) (x : HandOvers) : (s.withHand x).join = s.join := rfl
@[simp] theorem State.withHand_port (s : State) (x : HandOvers) : (s.withHand x).port = s.port := rfl
@[simp] theorem State.withHand_hand (s : State) (x : HandOvers) : (s.withHand x).hand = x := rfl
@[simp] theorem State.withHand_freeReads (s : State) (x : HandOvers) : (s.withHand x).freeReads = s.freeReads := rfl
@[simp] theorem State.withHand_pending (s : State) (x : HandOvers) : (s.withHand x).pending = s.pending := rfl

@[simp] theorem State.withFreeReads_resetHeld (s : State) (x : Nat) : (s.withFreeReads x).resetHeld = s.resetHeld := rfl
@[simp] theorem State.withFreeReads_straps (s : State) (x : Nat) : (s.withFreeReads x).straps = s.straps := rfl
@[simp] theorem State.withFreeReads_settings (s : State) (x : Nat) : (s.withFreeReads x).settings = s.settings := rfl
@[simp] theorem State.withFreeReads_edgeTaken (s : State) (x : Nat) : (s.withFreeReads x).edgeTaken = s.edgeTaken := rfl
@[simp] theorem State.withFreeReads_pli (s : State) (x : Nat) : (s.withFreeReads x).pli = s.pli := rfl
@[simp] theorem State.withFreeReads_intake (s : State) (x : Nat) : (s.withFreeReads x).intake = s.intake := rfl
@[simp] theorem State.withFreeReads_replica (s : State) (x : Nat) : (s.withFreeReads x).replica = s.replica := rfl
@[simp] theorem State.withFreeReads_sched (s : State) (x : Nat) : (s.withFreeReads x).sched = s.sched := rfl
@[simp] theorem State.withFreeReads_ops (s : State) (x : Nat) : (s.withFreeReads x).ops = s.ops := rfl
@[simp] theorem State.withFreeReads_monitor (s : State) (x : Nat) : (s.withFreeReads x).monitor = s.monitor := rfl
@[simp] theorem State.withFreeReads_join (s : State) (x : Nat) : (s.withFreeReads x).join = s.join := rfl
@[simp] theorem State.withFreeReads_port (s : State) (x : Nat) : (s.withFreeReads x).port = s.port := rfl
@[simp] theorem State.withFreeReads_hand (s : State) (x : Nat) : (s.withFreeReads x).hand = s.hand := rfl
@[simp] theorem State.withFreeReads_freeReads (s : State) (x : Nat) : (s.withFreeReads x).freeReads = x := rfl
@[simp] theorem State.withFreeReads_pending (s : State) (x : Nat) : (s.withFreeReads x).pending = s.pending := rfl

@[simp] theorem State.withPending_resetHeld (s : State) (x : List Instr) : (s.withPending x).resetHeld = s.resetHeld := rfl
@[simp] theorem State.withPending_straps (s : State) (x : List Instr) : (s.withPending x).straps = s.straps := rfl
@[simp] theorem State.withPending_settings (s : State) (x : List Instr) : (s.withPending x).settings = s.settings := rfl
@[simp] theorem State.withPending_edgeTaken (s : State) (x : List Instr) : (s.withPending x).edgeTaken = s.edgeTaken := rfl
@[simp] theorem State.withPending_pli (s : State) (x : List Instr) : (s.withPending x).pli = s.pli := rfl
@[simp] theorem State.withPending_intake (s : State) (x : List Instr) : (s.withPending x).intake = s.intake := rfl
@[simp] theorem State.withPending_replica (s : State) (x : List Instr) : (s.withPending x).replica = s.replica := rfl
@[simp] theorem State.withPending_sched (s : State) (x : List Instr) : (s.withPending x).sched = s.sched := rfl
@[simp] theorem State.withPending_ops (s : State) (x : List Instr) : (s.withPending x).ops = s.ops := rfl
@[simp] theorem State.withPending_monitor (s : State) (x : List Instr) : (s.withPending x).monitor = s.monitor := rfl
@[simp] theorem State.withPending_join (s : State) (x : List Instr) : (s.withPending x).join = s.join := rfl
@[simp] theorem State.withPending_port (s : State) (x : List Instr) : (s.withPending x).port = s.port := rfl
@[simp] theorem State.withPending_hand (s : State) (x : List Instr) : (s.withPending x).hand = s.hand := rfl
@[simp] theorem State.withPending_freeReads (s : State) (x : List Instr) : (s.withPending x).freeReads = s.freeReads := rfl
@[simp] theorem State.withPending_pending (s : State) (x : List Instr) : (s.withPending x).pending = x := rfl

end Sys2Proof.Machine
end

