-- ==== Sys2Proof/WellFormed.lean ====
section
/-! DEFINITION. Which terms stand for an event that can reach the part's pins. The types of the operands
carry the widths; what is left is the levels of a frame. A meaning is defined on every term. -/
namespace Sys2Proof

/-- A frame is heard from its frame-start bit, which is dominant (03 R53, R69). -/
def startsDominant : List Level → Bool
  | .dominant :: _ => true
  | _ => false

/-- A frame of B bytes, 7 to 103, takes 8·B to 10·B bit times after its frame-start bit (05 R85,
Table 5-1). -/
def frameLengthInRange (levels : List Level) : Bool :=
  57 ≤ levels.length && levels.length ≤ 1031

def WellFormed : Instr → Bool
  | .frameEnd levels => startsDominant levels && frameLengthInRange levels
  | _ => true

end Sys2Proof
end

