-- ==== Sys2Proof/Tests/Slice0.lean ====
section
/-! SUPPORT. Tests of single steps, their expected results taken from the tables and examples of the spec, and
witnesses: for each statement with hypotheses, a state and operands that meet them together. -/
namespace Sys2Proof.Tests
open Sys2Proof.Machine Sys2Proof.Safety

-- One theorem at a time: each is evaluated in the kernel, and side by side they exhaust the threads.
set_option Elab.async false

/-! ### Builders -/

/-- The state after one command. -/
def after (c : Instr) (s : State) : State :=
  match exec c s with
  | .next t => t
  | _ => s

/-- Station v after SETUP, in OUT: L = 64, P = 10, M = 3, auto-rejoin. -/
def station (v : Station) : State := { resetState ⟨v, 0, false, 0⟩ with settings := some ⟨10, 3, true⟩ }

def digest : Digest := ⟨1, 1, 10, 3⟩

/-- A replica with these MEMBERs, every lock FREE. -/
def fabricOf (ms : List Station) : Replica :=
  { foundedReplica 1 digest 64 with
    members := Vector.ofFn fun v : Station => if ms.contains v then ⟨.member, 0⟩ else absentRecord }

def inState (s : State) (st : StationState) : State := { s with join := { s.join with state := st } }

/-- Station v, MEMBER among these, on an idle line. -/
def member (v : Station) (ms : List Station) : State :=
  { station v with
    replica := fabricOf ms
    intake := ⟨[], 500, true⟩
    pli := { resetPli with line := .idle, gap := true, synced := true, origin := 3 }
    join := { resetJoin with state := .member } }

/-- One entry, one record, the join list, the apply queue, the request buffer, the operation and hold tables. -/
def withLock (s : State) (l : Byte) (e : LockEntry) : State := { s with replica := s.replica.setEntry l e }

def withRecord (s : State) (v : Station) (r : MemberRecord) : State :=
  { s with replica := s.replica.setRecord v r }

def withList (s : State) (js : List Station) : State := { s with replica := { s.replica with joinList := js } }

def withQueue (s : State) (fs : List Frame) : State := { s with intake := { s.intake with queue := fs } }

def withBuffer (s : State) (k : RequestKind) (bytes : List Byte) : State :=
  { s with port := { s.port with buffer := .complete k bytes } }

def withLive (s : State) (ops : List Operation) : State := { s with ops := { s.ops with live := ops } }

def withHolds (s : State) (hs : List HoldRecord) : State := { s with ops := { s.ops with holds := hs } }

/-- The hand-overs to the Operations Unit and the Join Controller that wait. -/
def withOpsHand (s : State) (hs : List OpsHandOver) : State := { s with hand := { s.hand with ops := hs } }

def withJoinHand (s : State) (hs : List JoinHandOver) : State := { s with hand := { s.hand with join := hs } }

def withNotices (s : State) (ns : List Notice) : State := { s with hand := { s.hand with notices := ns } }

/-- A frame of MEMBER v at epoch 500. -/
def frame (v : Station) (b : FrameBody) : Frame := ⟨v, .member, 500, b⟩

def x (v : Station) (o : Owner) : Waiter := ⟨⟨v, o⟩, .x⟩

def sh (v : Station) (o : Owner) : Waiter := ⟨⟨v, o⟩, .s⟩

def timely : HostAccess := ⟨false, 4⟩

/-- An ACQUIRE of owner 2 at lock 17, mode X, wait set, limit 1000 (11 Table 11-11). -/
def acq (p : AcquirePhase) : Acquire := ⟨2, 17, .x, true, 1000, p, false⟩

def acqHeld (p : AcquirePhase) : Acquire := { acq p with attached := true }

/-! ### Well-formedness, decoding, formats -/

theorem test_frame_not_starting_dominant_refused :
    WellFormed (.frameEnd (.recessive :: List.replicate 60 .dominant)) = false := by decide

theorem test_frame_too_short_refused : WellFormed (.frameEnd (List.replicate 56 .dominant)) = false := by decide

theorem test_frame_too_long_refused :
    WellFormed (.frameEnd (.dominant :: List.replicate 1031 .recessive)) = false := by decide +kernel

theorem test_frame_accepted : WellFormed (.frameEnd (frameLevels (frame 1 .alive))) = true := by decide +kernel

theorem test_no_word_spells_a_command : decodeTableWord 16 0x1234 = none := by decide

/-- 05 R88 gives the check value 29B1H for the nine ASCII digits 1 to 9. -/
theorem test_crc_check_value :
    crc [0x31, 0x32, 0x33, 0x34, 0x35, 0x36, 0x37, 0x38, 0x39] = 0x29B1#16 := by decide +kernel

/-- 05 Table 5-6. -/
theorem test_entry_bytes :
    entryBytes 9 ⟨.shared, [⟨1, 2⟩, ⟨6, 0⟩], [x 3 3, sh 0 5]⟩
      = [0x09, 0x82, 0x02, 0x12, 0x60, 0x33, 0x05, 0x80, 0x00] := by decide

/-- 05 Table 5-2, Table 5-4: CLAIM of 4.2 at lock 17, mode X, wait set, epoch 500 = 01F4H. -/
theorem test_claim_bytes :
    frameBytes (frame 4 (.claim 2 17 .x true)) = [0x94, 0x80, 0x01, 0xF4, 0x02, 0xC2, 0x11] := by decide

theorem test_claim_received :
    receiveFrame 64 (frameLevels (frame 4 (.claim 2 17 .x true))) = some (frame 4 (.claim 2 17 .x true)) := by
  decide +kernel

/-- A lock number of L or more fails check 2 (05 R94). -/
theorem test_claim_beyond_the_lock_space_fails :
    receiveFrame 64 (frameLevels (frame 4 (.claim 2 64 .x true))) = none := by decide +kernel

/-- What is heard beyond the end that the copy's length field tells is not the frame's (05 R87). -/
theorem test_levels_beyond_the_end_ignored :
    let f := frame 4 (.claim 2 17 .x true)
    receiveFrame 64 (frameLevels f ++ [.dominant, .recessive, .dominant]) = some f := by decide +kernel

/-- Five equal bits are followed by an inserted one; the frame-start bit counts (05 R85). -/
theorem test_inserted_bit :
    levelsOfBytes [0x0F] =
      [.dominant, .dominant, .dominant, .dominant, .dominant, .recessive, .recessive, .recessive, .recessive,
       .recessive, .dominant] := by decide

/-- Six equal bits are a coding error (03 R69). -/
theorem test_six_equal_bits_fail : bytesOfLevels (List.replicate 9 .dominant) = none := by decide

/-! ### Reset, ticks, expiries -/

theorem test_hardware_reset :
    (after .hardwareReset (member 5 [2, 5])).resetHeld = true
      ∧ (after .hardwareReset (member 5 [2, 5])).pli.line = .unobserved := by decide +kernel

theorem test_reset_release :
    (after (.resetRelease ⟨9, 1, true, 2⟩) { State.reset with resetHeld := true }).replica.locks.length = 128 := by
  decide +kernel

/-- 08 R136: an edge after 63 cycles is not taken. -/
theorem test_tick_edge_too_soon :
    after (.tick ⟨.pinEdge 63, true⟩) { resetState ⟨2, 0, true, 0⟩ with edgeTaken := true }
      = { resetState ⟨2, 0, true, 0⟩ with edgeTaken := true } := by decide +kernel

/-- 08 Table 8-3, rows 28 to 30: two ticks from 30, 2, 30. -/
def silent : State :=
  { member 2 [2, 5, 8] with
    monitor :=
      { resetMonitor with
        countdowns := ((Vector.replicate 16 .stopped).set 5 (.running 30)).set 8 (.running 2)
        isolation := .running 30
        counts := (Vector.replicate 16 0).set 8 57 } }

theorem test_tick_monitor :
    let t := after (.tick ⟨.divider, true⟩) (after (.tick ⟨.divider, true⟩) silent)
    t.monitor.countdowns[5] = .running 28 ∧ t.monitor.countdowns[8] = .due ∧ t.monitor.isolation = .running 28 := by
  decide +kernel

theorem test_silence_countdown_expiry :
    (after (.silenceCountdownExpiry 8) (after (.tick ⟨.divider, true⟩) (after (.tick ⟨.divider, true⟩) silent))).sched.control
      = [.evict 8 57] := by decide +kernel

/-- With no third station heard, no EVICT is queued (08 R143). -/
theorem test_silence_without_a_third :
    (after (.silenceCountdownExpiry 8)
      { silent with monitor := { resetMonitor with countdowns := (Vector.replicate 16 .stopped).set 8 .due } }
      ).sched.control = [] := by decide +kernel

theorem test_own_silence_expiry :
    let s := member 2 [2, 5]
    (after .ownSilenceExpiry { s with monitor := { s.monitor with ownSilence := .due } }).sched.control = [.alive] := by
  decide +kernel

theorem test_isolation_expiry :
    let s := member 6 [3, 6]
    let t := after .isolationExpiry { s with monitor := { s.monitor with isolation := .due } }
    t.monitor.lone = true ∧ t.port.attention = 8 := by decide +kernel

theorem test_idle_measure_expiry :
    let s := station 5
    let t := after .idleMeasureExpiry { s with pli := { s.pli with origin := 3, idle := .due } }
    t.pli.origin = 15 ∧ t.pli.synced = true := by decide +kernel

theorem test_wait_timer_expiry :
    let t := after (.waitTimerExpiry 2 17) (withLive (member 4 [4, 7]) [⟨0x21, .acquire (acq (.queued .due))⟩])
    t.sched.locks = [.withdraw 2 17] ∧ t.ops.live = [⟨0x21, .acquire (acq (.withdrawing .timer))⟩] := by
  decide +kernel

/-- 09 R158: the latch clear, the station founds. -/
theorem test_join_wait_expiry_founds :
    let s := inState (station 5) (.joining .awaitHead)
    let t := after .joinWaitExpiry { s with join := { s.join with joinWait := .due } }
    t.join.state = .founding ∧ t.sched.control = [.membership .found] := by decide +kernel

theorem test_join_wait_expiry_asks_again :
    let s := inState (station 5) (.joining .awaitHead)
    let t := after .joinWaitExpiry { s with join := { s.join with joinWait := .due, latch := true } }
    t.join.state = .joining .sendJoin ∧ t.sched.control = [.membership .join] := by decide +kernel

/-- 09 Table 9-3, tick 60. -/
theorem test_rejoin_timer_expiry :
    let s := inState (station 5) .out
    let t := after .rejoinTimerExpiry
      { s with join := { s.join with rejoin := .due, dropRecord := some .withdrawnRx } }
    t.join = { resetJoin with state := .joining .sendJoin, dropRecord := some .withdrawnRx }
      ∧ t.sched.control = [.membership .join] := by decide +kernel

/-! ### The line -/

theorem test_line_idle_gap : (after .lineIdleGap State.reset).pli.line = .idle := by decide +kernel

/-- 10 R181: after a SETUP on an unobserved line ticks count where it is quiet. -/
theorem test_tick_on_an_unobserved_line :
    let p : Pli := { resetPli with idle := .running 40 }
    (p.tick true).idle = .running 39 ∧ (p.tick false).idle = .running 40 := by decide

/-- 03 Table 3-1: after the slot's end the station is in IDLE only once the gap has been heard. -/
theorem test_gap_after_the_veto_slot :
    let s := member 5 [2, 5]
    let p : Pli := { s.pli with line := .veto, idle := .running 3 }.afterSlot true
    p.line = .vetoGap ∧ (∀ quiet, p.tick quiet = p) ∧ (after (.startMark .other) { s with pli := p }).pli = p
      ∧ (after .lineIdleGap { s with pli := p }).pli.line = .idle := by decide +kernel

theorem test_dominant_pulse : (after .dominantPulse (member 5 [2, 5])).pli.gap = false := by decide +kernel

theorem test_start_mark :
    let t := after (.startMark .other) (member 5 [2, 5])
    t.pli.line = .bidding ∧ t.pli.idle = .running 40 := by decide +kernel

/-- Station 2 with something to send, in a window. -/
def bidding : State :=
  let s := member 2 [2, 5, 9, 12]
  { s with
    pli := { s.pli with line := .bidding, gap := false, ownSlot := some true }
    sched := { resetSched with locks := [.claim 2 17 .x true] } }

theorem test_own_slot_begins :
    (after .ownSlotBegins { bidding with pli := { bidding.pli with ownSlot := none } }).pli.ownSlot = some true := by
  decide +kernel

/-- No bid with four frames in the apply queue (03 R52). -/
theorem test_own_slot_with_a_full_queue :
    (after .ownSlotBegins
      (withQueue { bidding with pli := { bidding.pli with ownSlot := none } }
        (List.replicate 4 (frame 5 .alive)))).pli.ownSlot = some false := by decide +kernel

/-- 03 Table 3-5a, the winner of each window. -/
theorem test_window_winners :
    windowWinner 3 0x0224 = some 5 ∧ windowWinner 5 0x0224 = some 9 ∧ windowWinner 9 0x1024 = some 12
      ∧ windowWinner 12 0x0024 = some 2 := by decide

theorem test_window_lost :
    let t := after (.windowClose 0x0220 true) bidding
    t.pli.line = .receiving ∧ t.pli.winner = 5 ∧ t.pli.part = true := by decide +kernel

theorem test_window_won :
    let t := after (.windowClose 0x0020 false) { bidding with pli := { bidding.pli with origin := 12 } }
    t.pli.sent = some (frame 2 (.claim 2 17 .x true)) ∧ t.hand.notices = [⟨.claim, 2, 17, .onLine⟩] := by
  decide +kernel

/-- 03 R54: a station that drops after its slot and joins again sends nothing, and the window it wins is empty. -/
theorem test_window_won_with_a_forfeited_bid :
    let s := { bidding with pli := { bidding.pli.dropped with origin := 12 } }
    s.pli.forfeited = true ∧ s.join.state.participant = true
      ∧ (after (.windowClose 0x0020 false) s).pli.line = .idle := by decide +kernel

/-- The ALIVE of 03 R54 takes no candidate: the mark on a donor item that is not ready stays (06 R101). -/
theorem test_mark_kept_at_the_unlisted_alive :
    let c : Sched := { resetSched with control := [.donor], retry := some (.control .donor) }
    c.candidate false = none ∧ c.wonUnlisted.retry = some (.control .donor) := by decide

/-- Station 2 sending its CLAIM. -/
def sending : State := after (.windowClose 0 false) bidding

theorem test_frame_end_readback :
    let driven := frameLevels (frame 2 (.claim 2 17 .x true))
    (after (.frameEnd driven) sending).pli.markE = false
      ∧ (after (.frameEnd (driven.map fun _ => .dominant)) sending).pli.markE = true := by decide +kernel

/-- Station 12 hears station 9's frame. -/
def receiving : State :=
  let s := member 12 [2, 5, 9, 12]
  { s with pli := { s.pli with line := .receiving, winner := 9, part := true } }

theorem test_frame_end_check_four :
    (after (.frameEnd (frameLevels ⟨9, .member, 501, .alive⟩)) receiving).pli.markE = true
      ∧ (after (.frameEnd (frameLevels (frame 9 .alive))) receiving).pli.markE = false := by decide +kernel

/-- 03 Table 3-5a, window 2 at station 12. -/
def vetoing : State :=
  { receiving with pli := { receiving.pli with line := .veto, origin := 5, copy := none, markE := true } }

theorem test_veto_given : (after (.vetoSlotEnd false false true) vetoing).pli.givenVeto = 1 := by decide +kernel

/-- 03 Table 3-5a, window 3 at station 12: the acceptance clears the count and moves the origin. -/
theorem test_veto_slot_accepted :
    let s := { vetoing with pli := { vetoing.pli with copy := some (frame 9 .alive), markE := false, givenVeto := 1 } }
    let t := after (.vetoSlotEnd false false true) s
    t.pli.givenVeto = 0 ∧ t.pli.origin = 9 ∧ t.intake.queue = [frame 9 .alive] ∧ t.intake.epoch = 501 := by
  decide +kernel

/-! ### Applications -/

/-- Lock 9 of 01 Table 1-3, at station 1. -/
def lock9 : State :=
  withLock (member 1 [0, 1, 2, 3, 4, 5, 6]) 9
    ⟨.shared, [⟨2, 1⟩, ⟨5, 0⟩], [x 4 3, sh 1 2, sh 6 0, x 3 3]⟩

theorem test_free_leaves_a_shared_entry :
    let t := after .applyFree (withQueue lock9 [frame 2 (.free 1 9)])
    t.replica.entry 9 = ⟨.shared, [⟨5, 0⟩], [x 4 3, sh 1 2, sh 6 0, x 3 3]⟩ ∧ t.hand.ops = []
      ∧ t.replica.poolUse = 4 := by decide +kernel

/-- The last row of 01 Table 1-3. -/
theorem test_free_regrants_two :
    let s := withLock lock9 9 ⟨.excl, [⟨4, 3⟩], [sh 1 2, sh 6 0, x 3 3, sh 0 5]⟩
    let t := after .applyFree (withQueue s [frame 4 (.free 3 9)])
    t.replica.entry 9 = ⟨.shared, [⟨1, 2⟩, ⟨6, 0⟩], [x 3 3, sh 0 5]⟩ ∧ t.hand.ops = [.grant 2 9 .s]
      ∧ t.replica.poolUse = 2 := by decide +kernel

/-- 01 Table 1-3, the fourth row, and 12 Table 12-1, the second. -/
theorem test_claim_queued_or_granted :
    let s := withLock (member 0 [0, 1, 2, 3, 4, 5, 6]) 9 ⟨.excl, [⟨4, 3⟩], [sh 1 2, sh 6 0, x 3 3]⟩
    let t := after .applyClaim (withQueue s [frame 0 (.claim 5 9 .s true)])
    let u := after .applyClaim (withQueue (member 3 [1, 3, 6]) [frame 3 (.claim 2 5 .s true)])
    t.replica.entry 9 = ⟨.excl, [⟨4, 3⟩], [sh 1 2, sh 6 0, x 3 3, sh 0 5]⟩ ∧ t.hand.ops = [.claim 5 9 .queued]
      ∧ u.replica.entry 5 = ⟨.shared, [⟨3, 2⟩], []⟩ ∧ u.hand.ops = [.claim 2 5 .granted] := by decide +kernel

theorem test_withdraw_of_a_waiter :
    let s := withLock (member 2 [2, 5]) 8 ⟨.excl, [⟨5, 0⟩], [x 2 1]⟩
    let t := after .applyWithdraw (withQueue s [frame 2 (.withdraw 1 8)])
    t.replica.entry 8 = ⟨.excl, [⟨5, 0⟩], []⟩ ∧ t.hand.ops = [.withdraw 1 8 .withdrawn] := by decide +kernel

theorem test_withdraw_of_a_holder :
    let s := withLock (member 2 [2, 5]) 8 ⟨.excl, [⟨2, 1⟩], []⟩
    (after .applyWithdraw (withQueue s [frame 2 (.withdraw 1 8)])).hand.ops = [.withdraw 1 8 .isHolder] := by
  decide +kernel

/-- The fabric of 02 Table 2-3, at station 6. -/
def joinings : State :=
  withLock (withRecord (withRecord (member 6 [1, 6]) 1 ⟨.member, 40⟩) 6 ⟨.member, 12⟩) 10 ⟨.excl, [⟨1, 0⟩], []⟩

theorem test_join_matching_or_refused :
    let t := after .applyJoin (withQueue joinings [⟨9, .joining, 500, .join digest⟩])
    let u := after .applyJoin (withQueue t [⟨4, .joining, 500, .join ⟨1, 1, 20, 3⟩⟩])
    t.replica.record 9 = ⟨.joining false 0, 1⟩ ∧ t.replica.joinList = [9] ∧ t.port.attention = 2
      ∧ u.replica.record 4 = ⟨.refuseDue .period, 1⟩ ∧ u.replica.joinList = [9, 4] := by decide +kernel

/-- 02 Table 2-3 from its third row on. -/
def loading9 (hs : Bool) (cur : Nat) (count : Byte) : State :=
  withList (withRecord (withRecord joinings 9 ⟨.joining hs cur, count⟩) 4 ⟨.refuseDue .period, 1⟩) [9, 4]

theorem test_snaphead :
    let s := loading9 false 0 1
    let f := frame 1 (.snaphead ⟨9, digest, 1, s.replica.members, [9, 4]⟩)
    let t := after .applySnaphead (withQueue s [f])
    t.replica.record 9 = ⟨.joining true 0, 1⟩ ∧ t.replica.record 1 = ⟨.member, 41⟩ ∧ t.port.attention = 0 := by
  decide +kernel

/-- The first SNAPDATA carries 31 entries in 96 bytes. -/
theorem test_snapdata_fill :
    let s := loading9 true 0 1
    s.replica.donorBody = .snapdata 9 0 (fillEntries 0 94 s.replica.locks)
      ∧ (fillEntries 0 94 s.replica.locks).length = 31 ∧ (payloadBytes s.replica.donorBody).length = 96 := by
  decide +kernel

theorem test_snapdata_applied :
    let s := loading9 true 0 1
    (after .applySnapdata (withQueue s [frame 1 s.replica.donorBody])).replica.record 9
      = ⟨.joining true 31, 1⟩ := by decide +kernel

/-- A CLAIM at the pool test winds the cursor back (02 Table 2-3, fifth row). -/
theorem test_claim_rewinds :
    let t := after .applyClaim (withQueue (loading9 true 31 1) [frame 6 (.claim 2 10 .x true)])
    t.replica.record 9 = ⟨.joining true 10, 1⟩ ∧ t.replica.record 6 = ⟨.member, 13⟩ := by decide +kernel

theorem test_alive_counts :
    let t := after .applyAlive (withQueue (loading9 true 10 1) [⟨9, .joining, 500, .alive⟩])
    t.replica.record 9 = ⟨.joining true 10, 2⟩ ∧ t.hand.monitor = [⟨9, [], [(9, 2)]⟩] := by decide +kernel

/-- The closing hand-over tells of an own frame, and of the donor and the head with its record (02 R47). -/
theorem test_own_alive_told :
    let t := after .applyAlive (withQueue (loading9 true 10 1) [frame 6 .alive])
    t.hand.join = [.dutyView (some ⟨.alive, true, false⟩) (some 1) (some (9, ⟨.joining true 10, 1⟩))] := by
  decide +kernel

theorem test_evict_with_a_stale_count :
    let t := after .applyEvict (withQueue (loading9 true 10 2) [frame 6 (.evict 9 1)])
    t.replica.record 9 = ⟨.joining true 10, 2⟩ ∧ t.replica.record 6 = ⟨.member, 13⟩ := by decide +kernel

theorem test_refuse :
    let s := withList (withRecord joinings 4 ⟨.refuseDue .period, 1⟩) [4]
    let t := after .applyRefuse (withQueue s [frame 1 (.refuse 4 .period)])
    t.replica.record 4 = absentRecord ∧ t.replica.joinList = [] ∧ t.port.attention = 2 := by decide +kernel

/-- 12 Table 12-4, at station 7. -/
theorem test_evict :
    let s := withLock (withLock (withRecord (member 7 [0, 4, 7, 9]) 4 ⟨.member, 212⟩) 30
      ⟨.excl, [⟨4, 1⟩], [sh 7 2, sh 9 0, x 0 3]⟩) 41 ⟨.excl, [⟨0, 1⟩], [x 4 5]⟩
    let t := after .applyEvict (withQueue s [frame 0 (.evict 4 212)])
    t.replica.entry 30 = ⟨.shared, [⟨7, 2⟩, ⟨9, 0⟩], [x 0 3]⟩ ∧ t.replica.entry 41 = ⟨.excl, [⟨0, 1⟩], []⟩
      ∧ t.hand.ops = [.grant 2 30 .s] ∧ t.replica.record 4 = absentRecord := by decide +kernel

/-- 01 Table 1-5. -/
theorem test_leave_removes :
    let s := withLock (withLock (member 1 [0, 1, 2, 4, 5]) 3 ⟨.excl, [⟨4, 0⟩], [sh 1 1, sh 4 2, sh 2 0]⟩) 7
      ⟨.shared, [⟨4, 5⟩, ⟨0, 3⟩], [x 5 5]⟩
    let t := after .applyLeave (withQueue s [⟨4, .leaving, 500, .leave⟩])
    t.replica.entry 3 = ⟨.shared, [⟨1, 1⟩, ⟨2, 0⟩], []⟩ ∧ t.replica.entry 7 = ⟨.shared, [⟨0, 3⟩], [x 5 5]⟩
      ∧ t.replica.poolUse = 1 ∧ t.replica.stationUse 5 = 1 := by decide +kernel

/-- 02 Table 2-4: JOIN from a MEMBER record. -/
theorem test_join_from_a_member :
    let s := withLock (withRecord (member 7 [3, 7]) 3 ⟨.member, 88⟩) 5 ⟨.excl, [⟨3, 0⟩], [x 7 1]⟩
    let t := after .applyJoin (withQueue s [⟨3, .joining, 500, .join digest⟩])
    t.replica.entry 5 = ⟨.excl, [⟨7, 1⟩], []⟩ ∧ t.replica.record 3 = ⟨.joining false 0, 1⟩
      ∧ t.hand.ops = [.grant 1 5 .x] := by decide +kernel

/-- 04 Table 4-3: SNAPHEAD(9) is applied at station 9 with one frame behind it. -/
def joiner9 : State :=
  let s := inState (station 9) (.joining .awaitHead)
  { s with
    pli := { s.pli with line := .idle, synced := true }
    intake := ⟨[frame 1 (.snaphead ⟨9, digest, 1, (withRecord joinings 9 ⟨.joining false 0, 1⟩).replica.members, [9]⟩),
      ⟨6, .member, 501, .claim 2 10 .x true⟩], 502, false⟩ }

theorem test_snaphead_at_the_joiner :
    let t := after .applySnaphead joiner9
    t.intake.epoch = 502 ∧ t.intake.valid = true ∧ t.replica.entry 10 = unknownEntry
      ∧ t.replica.record 9 = ⟨.joining true 0, 1⟩ := by decide +kernel

/-- 12 Table 12-6: the founder. -/
theorem test_own_found_creates :
    let s := withQueue (inState (station 3) .founding) [⟨3, .founding, 0, .found digest⟩]
    let t := after .applyFound s
    t.intake.epoch = 1 ∧ t.intake.valid = true ∧ t.replica.record 3 = ⟨.member, 1⟩
      ∧ t.replica.fabric = some ⟨digest, 3⟩ := by decide +kernel

theorem test_other_found_handed_over :
    (after .applyFound (withQueue (inState (station 7) .founding) [⟨3, .founding, 0, .found digest⟩])).hand.join
      = [.otherFound, .dutyView none none none] := by decide +kernel

/-! ### The Operations Unit -/

/-- 07 Table 7-8, second row: on the line, accepted. -/
theorem test_notices_move_the_phase :
    let s := withNotices (withLive (member 4 [4, 7]) [⟨10, .acquire (acq .outbound)⟩])
      [⟨.claim, 2, 17, .onLine⟩, ⟨.claim, 2, 17, .accepted⟩]
    (after .lockFrameAccepted (after .lockFrameOnLine s)).ops.live = [⟨10, .acquire (acq .applyWait)⟩] := by
  decide +kernel

/-- 07 Table 7-9: the veto of a CLAIM with a CANCEL attached. -/
theorem test_veto_cancels :
    let s := withNotices (withLive (member 4 [4, 7]) [⟨40, .acquire (acqHeld .onLine)⟩, ⟨41, .cancel 2 17⟩])
      [⟨.claim, 2, 17, .vetoed false⟩]
    let t := after .lockFrameVetoed { s with sched := { s.sched with locks := [.claim 2 17 .x true] } }
    t.port.replies = [⟨40, .acquire, .cancelled, []⟩, ⟨41, .cancel, .done, []⟩] ∧ t.sched.locks = []
      ∧ t.ops.live = [] := by decide +kernel

/-- 07 Table 7-8, third row. -/
theorem test_claim_outcome_granted :
    let s := withOpsHand (withLive (member 4 [4, 7]) [⟨10, .acquire (acq .applyWait)⟩]) [.claim 2 17 .granted]
    let t := after .claimOutcome s
    t.ops.holds = [⟨17, 2, .x, 1, false⟩] ∧ t.port.replies = [⟨10, .acquire, .granted, []⟩] := by decide +kernel

/-- 11 Table 11-11: the outcome QUEUED, 1000 ticks. -/
theorem test_claim_outcome_queued :
    (after .claimOutcome
      (withOpsHand (withLive (member 4 [4, 7]) [⟨0x21, .acquire (acq .applyWait)⟩]) [.claim 2 17 .queued])).ops.live
      = [⟨0x21, .acquire (acq (.queued (.running 1000)))⟩] := by decide +kernel

/-- 07 Table 7-8: FREE applied, RELEASED. -/
theorem test_free_outcome :
    let s := withHolds (withLive (member 4 [4, 7]) [⟨13, .release 2 17 .applyWait⟩]) [⟨17, 2, .x, 1, true⟩]
    let t := after .freeOutcome (withOpsHand s [.free 2 17 .released])
    t.ops = ⟨[], []⟩ ∧ t.port.replies = [⟨13, .release, .released, []⟩] := by decide +kernel

/-- 12 Table 12-2: the WITHDRAW is applied first, the timer its cause. -/
theorem test_withdraw_outcome_timeout :
    (after .withdrawOutcome
      (withOpsHand (withLive (member 4 [4, 7]) [⟨60, .acquire (acq (.withdrawing .timer))⟩])
        [.withdraw 2 17 .withdrawn])).port.replies = [⟨60, .acquire, .timeout, []⟩] := by decide +kernel

/-- 11 Table 11-11: the grant notice. -/
theorem test_grant_notice :
    let s := withLive (member 4 [4, 7]) [⟨0x21, .acquire (acq (.queued (.running 900)))⟩]
    let t := after .grantNotice (withOpsHand s [.grant 2 17 .x])
    t.ops = ⟨[], [⟨17, 2, .x, 1, false⟩]⟩ ∧ (t.port.replies.map Reply.bytes) = [[0x03, 0x21, 0x04, 0x01]] := by
  decide +kernel

/-! ### The Join Controller -/

/-- Station 5 in a sub-state of JOINING, with a hand-over waiting. -/
def joining (st : StationState) (h : JoinHandOver) : State :=
  withJoinHand (inState (station 5) st) [h, .dutyView none none none]

theorem test_own_join_applied :
    (after .ownJoinApplied (joining (.joining .sendJoin) .ownJoin)).join.joinWait = .running 40 := by decide +kernel

theorem test_own_found_applied :
    let t := after .ownFoundApplied (withLive (joining .founding (.ownFound true)) [⟨7, .join⟩])
    t.join.state = .member ∧ t.port.replies = [⟨7, .join, .done, []⟩] := by decide +kernel

/-- 12 Table 12-6, station 7: the FOUND is replaced by a JOIN. -/
theorem test_other_found_applied :
    let s := joining .founding .otherFound
    let t := after .otherFoundApplied { s with sched := { s.sched with control := [.membership .found] } }
    t.join.state = .joining .sendJoin ∧ t.join.latch = true ∧ t.sched.control = [.membership .join] := by
  decide +kernel

/-- 12 Table 12-7: with the FOUND on the line the replacement is held. -/
theorem test_other_found_while_on_the_line :
    let s := joining .founding .otherFound
    let t := after .otherFoundApplied
      { s with sched := { s.sched with
                control := [.membership .found], onLine := .item (.control .membership) } }
    t.sched.control = [.membership .found] ∧ t.sched.held = some .join := by decide +kernel

theorem test_own_snaphead_taken :
    let t := after .ownSnapheadTaken (joining (.joining .awaitHead) .ownSnaphead)
    t.join.state = .joining .loading ∧ t.join.joinWait = .running 40 := by decide +kernel

theorem test_own_snapdata_taken :
    let t := after .ownSnapdataTaken (joining (.joining .loading) (.ownSnapdata true))
    t.join.state = .member ∧ t.join.joinWait = .stopped ∧ t.port.attention = 1 := by decide +kernel

theorem test_membership_item_removed :
    let s := withRecord (inState (station 5) (.joining .sendJoin)) 5 ⟨.joining true 62, 1⟩
    (after .membershipItemRemoved { s with hand := { s.hand with itemRemoved := true } }).join.state
      = .joining .loading := by decide +kernel

theorem test_refuse_taken :
    (after .refuseTaken (joining (.joining .awaitHead) (.refused .period))).hand.dropCause
      = some (.refused .period) := by decide +kernel

theorem test_own_leave_applied : (after .ownLeaveApplied (joining .leaving .ownLeave)).hand.dropCause = some .left := by
  decide +kernel

theorem test_evict_naming_self :
    (after .evictNamingSelf (joining .member .evictedSelf)).hand.dropCause = some .evicted := by decide +kernel

theorem test_donor_duty :
    let t := after .donorDutyEvaluation (withJoinHand (member 1 [1, 6]) [.dutyView none (some 1) (some (9, ⟨.joining false 0, 0⟩))])
    t.join.duty = true ∧ t.sched.control = [.donor] := by decide +kernel

/-- 08 Table 8-3, tick 8: an application of station 5's frame loads its countdown and the isolation counter. -/
theorem test_presence_hand_over :
    let t := after .presenceHandOver { silent with hand := { silent.hand with monitor := [⟨5, [], [(5, 7)]⟩] } }
    t.monitor.countdowns[5] = .running 30 ∧ t.monitor.countdowns[8] = .running 2 ∧ t.monitor.isolation = .running 30
      ∧ t.monitor.counts[5] = 7 := by decide +kernel

/-- 09 Table 9-3, tick 0. -/
def withdrawing : State :=
  let s := member 5 [2, 5, 8]
  { s with hand := { s.hand with withdrawal := some .withdrawnRx } }

theorem test_drop :
    let t := after .drop withdrawing
    t.join = { resetJoin with state := .out, dropRecord := some .withdrawnRx, rejoin := .running 60 }
      ∧ t.replica = emptyReplica ⟨5, 0, false, 0⟩ ∧ t.intake = ⟨[], 500, false⟩ ∧ t.port.attention = 3 := by
  decide +kernel

/-! ### The host port: 11 Table 11-11 -/

theorem test_kind_byte :
    statusByte (member 4 [4, 7]) = 0x04 ∧ statusByte (after (.kindByteWrite timely 4) (member 4 [4, 7])) = 0x84 := by
  decide +kernel

/-- A status read within the recovery time is ignored (11 R184). -/
theorem test_status_read :
    statusRead timely (member 4 [4, 7]) = some 0x04 ∧ statusRead ⟨false, 3⟩ (member 4 [4, 7]) = none := by
  decide +kernel

theorem test_argument_byte :
    let s := { member 4 [4, 7] with
      port := { resetPort with buffer := .filling .acquire [0x21, 0xC2, 0x11, 0xE8] } }
    statusByte (after (.argumentByteWrite timely 3) s) = 0x0C := by decide +kernel

theorem test_stray_argument :
    (after (.argumentByteWrite timely 3) (member 4 [4, 7])).port.lastError = .stray := by decide +kernel

/-- A reply of station 4, with this many of its bytes read. -/
def reading (n : Nat) : State :=
  { member 4 [4, 7] with port := { resetPort with replies := [⟨0x21, .acquire, .granted, []⟩], readPos := n } }

theorem test_reply_read :
    statusByte (reading 3) = 0x14 ∧ (after (.replyRead timely) (reading 0)).port.lastRead = some 0x03
      ∧ (after (.replyRead timely) (reading 3)).port.lastRead = some 0x01
      ∧ statusByte (after (.replyRead timely) (reading 3)) = 0x04 := by decide +kernel

theorem test_reply_read_underrun :
    let t := after (.replyRead timely) (member 4 [4, 7])
    t.port.lastRead = some 0 ∧ t.port.lastError = .underrun ∧ t.port.attention = 4 := by decide +kernel

/-! ### Requests -/

theorem test_setup :
    let t := after .setup (withBuffer State.reset .setup [10, 3, 0x83])
    t.settings = some ⟨10, 3, true⟩ ∧ t.port.mask = 3 ∧ t.pli.idle = .running 40 ∧ t.join.state = .out
      ∧ t.port.replies = [⟨0, .setup, .done, []⟩] := by decide +kernel

/-- P of 3 is out of range (10 R180). -/
theorem test_setup_bad :
    (after .setup (withBuffer State.reset .setup [3, 3, 0])).port.replies = [⟨0, .setup, .badArg, []⟩] := by
  decide +kernel

theorem test_join :
    let t := after .join (withBuffer (inState (station 5) .out) .join [7])
    t.join.state = .joining .sendJoin ∧ t.ops.live = [⟨7, .join⟩] ∧ t.sched.control = [.membership .join]
      ∧ t.monitor.ownSilence = .running 10 := by decide +kernel

/-- 06 R107, 07 R133: an operation in OUTBOUND is flushed with LEFT, one on the line is not. -/
theorem test_detach :
    let s := withLive (member 4 [4, 7]) [⟨0x21, .acquire (acq .outbound)⟩, ⟨0x22, .release 1 5 .outbound⟩]
    let c : Sched := { resetSched with locks := [.claim 2 17 .x true, .free 1 5], onLine := .item (.lock .free 1 5) }
    let t := after .detach (withBuffer { s with sched := c } .detach [9])
    t.join.state = .leaving ∧ t.ops.live = [⟨0x22, .release 1 5 .outbound⟩, ⟨9, .detach⟩]
      ∧ t.sched.locks = [.free 1 5] ∧ t.sched.control = [.membership .leave]
      ∧ t.port.replies = [⟨0x21, .acquire, .left, []⟩] := by decide +kernel

theorem test_acquire :
    let t := after .acquire (withBuffer (member 4 [4, 7]) .acquire [0x21, 0xC2, 0x11, 0xE8, 0x03])
    t.ops.live = [⟨0x21, .acquire (acq .outbound)⟩] ∧ t.sched.locks = [.claim 2 17 .x true]
      ∧ t.port.buffer = .empty := by decide +kernel

/-- 07 Table 7-8, tag 11: S over an X hold is granted by re-entry. -/
theorem test_acquire_again :
    let s := withHolds (member 4 [4, 7]) [⟨17, 2, .x, 1, false⟩]
    let t := after .acquire (withBuffer s .acquire [11, 0x02, 0x11, 0, 0])
    t.ops.holds = [⟨17, 2, .x, 2, false⟩] ∧ t.port.replies = [⟨11, .acquire, .granted, []⟩] := by decide +kernel

/-- 07 Table 7-8, tag 13. -/
theorem test_release :
    let s := withHolds (member 4 [4, 7]) [⟨17, 2, .x, 1, false⟩]
    let t := after .release (withBuffer s .release [13, 0x02, 0x11])
    t.ops = ⟨[⟨13, .release 2 17 .outbound⟩], [⟨17, 2, .x, 1, true⟩]⟩ ∧ t.sched.locks = [.free 2 17] := by
  decide +kernel

theorem test_release_of_nothing :
    (after .release (withBuffer (member 4 [4, 7]) .release [13, 0x02, 0x11])).port.replies
      = [⟨13, .release, .notHolder, []⟩] := by decide +kernel

theorem test_cancel_of_a_waiter :
    let s := withLive (member 4 [4, 7]) [⟨0x21, .acquire (acq (.queued (.running 5)))⟩]
    let t := after .cancel (withBuffer s .cancel [0x22, 0x02, 0x11])
    t.sched.locks = [.withdraw 2 17]
      ∧ t.ops.live = [⟨0x21, .acquire (acqHeld (.withdrawing .cancel))⟩, ⟨0x22, .cancel 2 17⟩] := by decide +kernel

/-- 07 Table 7-9: the CLAIM is on the line, the CANCEL waits. -/
theorem test_cancel_on_the_line :
    let s := withLive (member 4 [4, 7]) [⟨40, .acquire (acq .onLine)⟩]
    let t := after .cancel (withBuffer s .cancel [41, 0x02, 0x11])
    t.ops.live = [⟨40, .acquire (acqHeld .onLine)⟩, ⟨41, .cancel 2 17⟩] ∧ t.port.replies = [] := by decide +kernel

/-- 05 Table 5-6 in a reply of 11 R197. -/
theorem test_query_lock :
    let s := withLock (member 4 [4, 7]) 9 ⟨.shared, [⟨1, 2⟩, ⟨6, 0⟩], [x 3 3, sh 0 5]⟩
    (after .queryLock (withBuffer s .queryLock [1, 9])).port.replies.map Reply.bytes
      = [[12, 1, 7, 0, 0x09, 0x82, 0x02, 0x12, 0x60, 0x33, 0x05, 0x80, 0x00]] := by decide +kernel

/-- Sixteen records of two bytes, the list length, and two bytes for each listed station (11 R198). -/
theorem test_query_members :
    ((after .queryMembers (withBuffer (loading9 true 31 1) .queryMembers [1])).port.replies.map fun r =>
      (r.data.length, r.data.drop 32)) = [(37, [2, 0x90, 31, 0x40, 0])] := by decide +kernel

theorem test_query_station :
    (after .queryStation (withBuffer (member 4 [4, 7]) .queryStation [1])).port.replies.map Reply.data
      = [[0x04, 0, 0, 0, 0, 0, 0, 0x01, 0xF4, 0x40, 0]] := by decide +kernel

theorem test_ack :
    let s := { member 4 [4, 7] with port := { resetPort with attention := 7 } }
    (after .ack (withBuffer s .ack [5])).port.attention = 2 := by decide +kernel

/-! ### Witnesses: steps, reset, timers -/

theorem witness_StepRunsTheCommandInFront :
    ({ State.reset with pending := [.tick ⟨.divider, true⟩, .ack] } : State).pending = .tick ⟨.divider, true⟩ :: [.ack]
      ∧ State.reset.pending = [] := by decide

theorem witness_ResetStopsThePartAndReleasesIt :
    ({ member 5 [2, 5] with resetHeld := true } : State).resetHeld = true ∧ ∀ p, Instr.ack ≠ .resetRelease p :=
  ⟨rfl, fun _ h => by cases h⟩

theorem witness_ConfigurationHoldsUntilReset :
    exec (.tick ⟨.divider, true⟩) (member 5 [2, 5]) = .next (after (.tick ⟨.divider, true⟩) (member 5 [2, 5]))
      ∧ (∀ p, Instr.tick ⟨.divider, true⟩ ≠ .resetRelease p) ∧ (member 5 [2, 5]).join.state ≠ .unconfigured :=
  ⟨rfl, fun _ h => (by cases h), by decide⟩

/-- The divider; an edge of the least period; the first edge; a line that is unobserved. A waiting ACQUIRE is live,
another station is named. -/
theorem witness_TicksReachEveryTimer_taken :
    ((silent.resetHeld = false ∧ silent.straps.tsel = false ∧ silent.pli.line = .idle)
      ∧ ∃ v : Station, v ≠ silent.straps.station ∧ silent.replica.members[v].state ≠ .absent)
    ∧ (let s : State := { resetState ⟨2, 0, true, 0⟩ with edgeTaken := true }
       s.resetHeld = false ∧ s.straps.tsel = true ∧ 64 ≤ 64)
    ∧ (resetState ⟨2, 0, true, 0⟩).straps.tsel = true ∧ (resetState ⟨2, 0, true, 0⟩).edgeTaken = false
    ∧ State.reset.pli.line = .unobserved
    ∧ (withLive silent [⟨1, .acquire (acq (.queued (.running 1)))⟩]).ops.live[0]?
        = some ⟨1, .acquire (acq (.queued (.running 1)))⟩ := by decide +kernel

theorem witness_TicksReachEveryTimer_notTaken :
    (resetState ⟨2, 0, true, 0⟩).straps.tsel = true ∧ (resetState ⟨2, 0, false, 0⟩).straps.tsel = false
      ∧ ({ resetState ⟨2, 0, true, 0⟩ with edgeTaken := true } : State).edgeTaken = true ∧ 63 < 64 := by decide

/-- A station whose Monitor's counters stand so. -/
def monitored (m : Monitor) : State := { member 2 [2, 5, 8] with monitor := m }

theorem witness_CounterExpiriesTakeEffect_idleMeasure :
    let s := { station 5 with pli := { resetPli with idle := .due } }
    s.resetHeld = false ∧ s.pli.idle = .due := by decide

/-- With the scheduler idle, and not idle. -/
theorem witness_CounterExpiriesTakeEffect_ownSilence :
    let s := monitored { resetMonitor with ownSilence := .due }
    s.resetHeld = false ∧ s.monitor.ownSilence = .due
      ∧ s.sched.candidate s.intake.queue.isEmpty = none ∧ s.sched.onLine = .nothing
      ∧ ({ s with sched := { s.sched with control := [.evict 8 57] } } : State).sched.candidate true ≠ none := by
  decide +kernel

theorem witness_CounterExpiriesTakeEffect_isolation :
    let s := monitored { resetMonitor with isolation := .due }
    s.resetHeld = false ∧ s.monitor.isolation = .due ∧ EarlierCountersDone s 16 := by
  unfold EarlierCountersDone; decide +kernel

theorem witness_CounterExpiriesTakeEffect_rejoin :
    let s := { station 5 with join := { resetJoin with state := .out, rejoin := .due } }
    s.resetHeld = false ∧ s.join.rejoin = .due ∧ s.join.state = .out := by decide

theorem witness_WaitTimerExpiryQueuesWithdraw :
    let s := withLive (member 4 [4, 7]) [⟨9, .detach⟩, ⟨0x21, .acquire (acq (.queued .due))⟩]
    s.resetHeld = false ∧ (acq (.queued .due)).phase = .queued .due
      ∧ AcquireBecomes s.ops.live [⟨9, .detach⟩, ⟨0x21, .acquire (acq (.withdrawing .timer))⟩] (acq (.queued .due))
          { acq (.queued .due) with phase := .withdrawing .timer } :=
  ⟨rfl, rfl, [⟨9, .detach⟩], [], 0x21, rfl, by decide, rfl⟩

/-- Station 8 due and 5 heard, with no EVICT and with one; station 8 due and no third one heard. -/
theorem witness_SilenceExpiryEvictsIfAThirdIsHeard :
    let s := monitored { resetMonitor with
      countdowns := ((Vector.replicate 16 .stopped).set 5 (.running 1)).set 8 .due }
    let q := { s with sched := { s.sched with control := [.evict 8 57] } }
    let l := monitored { resetMonitor with countdowns := (Vector.replicate 16 .stopped).set 8 .due }
    (s.resetHeld = false ∧ s.monitor.countdowns[(8 : Station)] = .due ∧ EarlierCountersDone s 8
      ∧ (∃ w : Station, w ≠ s.straps.station ∧ w ≠ 8 ∧ s.monitor.countdowns[w].isRunning = true)
      ∧ ∀ i ∈ s.sched.control, i.purpose ≠ .evict 8)
    ∧ (q.resetHeld = false ∧ q.monitor.countdowns[(8 : Station)] = .due ∧ EarlierCountersDone q 8
      ∧ ∃ i ∈ q.sched.control, i.purpose = .evict 8)
    ∧ (l.resetHeld = false ∧ l.monitor.countdowns[(8 : Station)] = .due ∧ EarlierCountersDone l 8
      ∧ ∀ w : Station, w ≠ l.straps.station → w ≠ 8 → l.monitor.countdowns[w].isRunning = false) := by
  unfold EarlierCountersDone; decide +kernel

/-- A station in this state whose join wait has run out. -/
def waited (s : State) (st : StationState) (latch : Bool) : State :=
  { s with join := { resetJoin with state := st, joinWait := .due, latch := latch } }

theorem witness_JoinWaitExpiryActsByState_noFabric :
    let a := waited (station 5) (.joining .awaitHead) false
    let b := waited (station 5) (.joining .awaitHead) true
    let c := waited (withRecord (member 5 [2]) 5 ⟨.joining true 31, 1⟩) (.joining .loading) true
    (a.resetHeld = false ∧ a.join.joinWait = .due ∧ a.replica.fabric = none ∧ a.join.state = .joining .awaitHead
      ∧ a.join.latch = false)
    ∧ (b.resetHeld = false ∧ b.join.joinWait = .due ∧ b.replica.fabric = none ∧ b.join.state = .joining .awaitHead
      ∧ b.join.latch = true)
    ∧ (c.resetHeld = false ∧ c.join.joinWait = .due ∧ (∃ v : Station, c.replica.members[v].state = .member)
      ∧ c.join.state = .joining .loading) := by decide +kernel

theorem witness_JoinWaitExpiryActsByState_memberless :
    let s := waited (withRecord (member 5 []) 5 ⟨.joining true 31, 1⟩) (.joining .loading) true
    s.resetHeld = false ∧ s.join.joinWait = .due ∧ s.join.state = .joining .loading ∧ s.replica.fabric ≠ none
      ∧ ∀ v : Station, s.replica.members[v].state ≠ .member := by decide +kernel

/-! ### Witnesses: the line -/

/-- Station 2 with something to send, on an idle line. -/
def ready : State := { bidding with pli := { bidding.pli with line := .idle, gap := true, ownSlot := none } }

theorem witness_IdleLineOpensWindowsAndSlots_idle :
    State.reset.resetHeld = false ∧ State.reset.pli.line = .unobserved ∧ State.reset.pli.line ≠ .idle
      ∧ (ready.pli.afterSlot true).line = .vetoGap ∧ (ready.pli.afterSlot true).line ≠ .idle
      ∧ ready.resetHeld = false ∧ ready.pli.line = .idle ∧ ready.pli.gap = true ∧ MayBid ready := by
  unfold MayBid; decide +kernel

/-- A slot in which the station may bid; at three frames in the queue it may, at four it may not. -/
theorem witness_IdleLineOpensWindowsAndSlots_slot :
    let s := { bidding with pli := { bidding.pli with ownSlot := none } }
    (s.resetHeld = false ∧ s.pli.line = .bidding ∧ s.pli.ownSlot = none
      ∧ MayBid (withQueue s (List.replicate 3 (frame 5 .alive))))
    ∧ ¬ MayBid (withQueue s (List.replicate 4 (frame 5 .alive))) := by unfold MayBid; decide +kernel

/-- Table 3-5a, window 2: 9 wins from origin 5, and station 5, its own slot last, does not. -/
theorem witness_WinnerIsNearestTheOrigin :
    windowWinner 5 0x0224 = some 9 ∧ (0x0224#16).getLsbD (5 : Station).val = true ∧ (5 : Station) ≠ 9 := by decide

theorem witness_WindowCloseDecidesTheTransmission_lost :
    let quiet := { bidding with pli := { bidding.pli with ownSlot := some false } }
    (bidding.resetHeld = false ∧ bidding.pli.line = .bidding)
    ∧ (∀ n, ¬ heard quiet 0 n)
    ∧ heard bidding 0x0220 5
    ∧ (∀ n, heard bidding 0x0220 n → rotationDistance bidding.pli.origin 5 ≤ rotationDistance bidding.pli.origin n)
    ∧ (5 : Station) ≠ bidding.straps.station
    ∧ ({ bidding with pli := bidding.pli.dropped } : State).pli.forfeited = true := by unfold heard; decide +kernel

/-- With a candidate that is a lock item, a control item, and with none, a mark on a donor item not ready. -/
theorem witness_WindowCloseDecidesTheTransmission_won :
    let s := { bidding with pli := { bidding.pli with origin := 12 } }
    let a := { s with sched := { resetSched with control := [.alive] } }
    let n := { withQueue s [frame 5 .alive] with
      sched := { resetSched with control := [.donor], retry := some (.control .donor) } }
    (s.resetHeld = false ∧ s.pli.line = .bidding ∧ s.pli.ownSlot = some true ∧ s.join.state.participant = true
      ∧ s.pli.forfeited = false ∧ ∀ n, heard s 0x0020 n → rotationDistance s.pli.origin s.straps.station ≤ rotationDistance s.pli.origin n)
    ∧ s.sched.candidate s.intake.queue.isEmpty = some (.lock .claim 2 17)
    ∧ a.sched.candidate a.intake.queue.isEmpty = some (.control .alive)
    ∧ n.sched.candidate n.intake.queue.isEmpty = none := by unfold heard; decide +kernel

theorem witness_ListItemsFixTheFrame_items :
    let c : Sched := { resetSched with
      control := [.membership .join, .donor, .evict 8 57, .alive]
      locks := [.claim 2 17 .x true, .free 1 5, .withdraw 3 8] }
    c.lockItem (.lock .claim 2 17) = some (.claim 2 17 .x true)
      ∧ c.lockItem (.lock .free 1 5) = some (.free 1 5)
      ∧ c.lockItem (.lock .withdraw 3 8) = some (.withdraw 3 8) ∧ c.controlItem .alive = some .alive
      ∧ c.controlItem (.evict 8) = some (.evict 8 57) ∧ c.controlItem .membership = some (.membership .join)
      ∧ ({ c with control := [.membership .found] } : Sched).controlItem .membership = some (.membership .found)
      ∧ ({ c with control := [.membership .leave] } : Sched).controlItem .membership = some (.membership .leave)
      ∧ c.controlItem .donor = some .donor := by decide

/-- The head of the join list in each state, the others named by the list below it. -/
theorem witness_ListItemsFixTheFrame_donor :
    let r := withList (withRecord joinings 4 ⟨.refuseDue .period, 1⟩) [4]
    joinings.replica.joinList = []
      ∧ (r.replica.joinList = 4 :: [] ∧ r.replica.fabric = some ⟨digest, 1⟩
          ∧ r.replica.members[(4 : Station)].state = .refuseDue .period)
      ∧ ((loading9 false 0 1).replica.joinList = 9 :: [4] ∧ (loading9 false 0 1).replica.fabric = some ⟨digest, 1⟩
          ∧ (loading9 false 0 1).replica.members[(9 : Station)].state = .joining false 0)
      ∧ (loading9 true 31 1).replica.members[(9 : Station)].state = .joining true 31 := by decide +kernel

/-- The 32nd entry of Table 2-3 does not fit. -/
theorem witness_ListItemsFixTheFrame_fill :
    let locks := (loading9 true 0 1).replica.locks
    let es := fillEntries 0 94 locks
    es[30]? = some ⟨30, ⟨.free, [], []⟩⟩ ∧ locks[es.length]? = some ⟨.free, [], []⟩ := by decide +kernel

theorem witness_FrameEndSetsTheMarks :
    (sending.resetHeld = false ∧ sending.pli.line = .sending
      ∧ sending.pli.sent = some (frame 2 (.claim 2 17 .x true)))
    ∧ receiving.resetHeld = false ∧ receiving.pli.line = .receiving ∧ receiving.pli.part = true := by decide +kernel

/-- Copies of 7 and 103 bytes; a length field of 97 in 103 bytes; a copy cut short, and one of 5 bytes. -/
theorem witness_FrameEndSetsTheMarks_ends :
    let header (n : Byte) : List Byte := [0x14, 0x80, 0x01, 0xF4, n]
    let length (n : Byte) : Nat := ((header n).getD 4 0).toNat
    (5 ≤ (header 0 ++ [0, 0]).length ∧ length 0 ≤ 96 ∧ (header 0 ++ [0, 0]).length = 7 + length 0)
    ∧ (length 96 ≤ 96 ∧ (header 96 ++ List.replicate 98 0).length = 7 + length 96)
    ∧ (96 < length 97 ∧ (header 97 ++ List.replicate 98 0).length = 103)
    ∧ ((header 2 ++ [2, 17, 0]).length < 7 + min 96 (length 2) ∧ 5 ≤ (header 0).length
      ∧ (header 0).length < 7 + min 96 (length 0)) := by decide

/-- Station 2's own frame in its veto slot. -/
def ownSlot : State :=
  { sending with pli := { sending.pli with line := .veto } }

theorem witness_AcceptanceOfAnotherStationsFrame :
    let s := { vetoing with pli := { vetoing.pli with copy := some (frame 9 .alive), markE := false } }
    s.resetHeld = false ∧ s.pli.line = .veto ∧ s.pli.sent = none ∧ s.pli.markE = false ∧ s.pli.markF = false := by
  decide +kernel

/-- 06 R105: a rescinded donor item, and a rescinded JOIN, told as removed after a veto or as accepted. -/
theorem test_told_of_a_rescinded_item :
    let s (i : ControlItem) : State := { ownSlot with
      sched := { resetSched with control := [i], onLine := .item i.id, rescinded := true } }
    (after (.vetoSlotEnd true false true) (s .donor)).join.told = some ⟨.donor, .removed⟩
      ∧ (after (.vetoSlotEnd false false true) (s (.membership .join))).join.told = some ⟨.membership, .accepted⟩
      ∧ (after (.vetoSlotEnd true false true) (s (.evict 8 57))).join.told = none := by decide +kernel

theorem witness_AcceptanceOfTheOwnFrame :
    let out := { ownSlot with pli := { ownSlot.pli with part := false } }
    (ownSlot.resetHeld = false ∧ ownSlot.pli.line = .veto ∧ ownSlot.pli.sent = some (frame 2 (.claim 2 17 .x true))
      ∧ ownSlot.pli.part = true ∧ ownSlot.pli.markE = false ∧ ownSlot.pli.markF = false)
    ∧ out.pli.sent = some (frame 2 (.claim 2 17 .x true)) ∧ out.pli.part = false := by decide +kernel

/-- A veto that the station did not give; its seventh; its eighth. -/
theorem witness_VetoOfAnotherStationsFrame :
    let counted (n : BitVec 3) : State := { vetoing with pli := { vetoing.pli with givenVeto := n } }
    let other := { vetoing with pli := { vetoing.pli with markE := false } }
    (vetoing.resetHeld = false ∧ vetoing.pli.line = .veto ∧ vetoing.pli.sent = none)
    ∧ ¬ (other.pli.part = true ∧ other.pli.markE = true)
    ∧ ((counted 6).pli.part = true ∧ (counted 6).pli.markE = true ∧ (counted 6).pli.givenVeto.toNat + 1 < 8)
    ∧ ((counted 7).pli.part = true ∧ (counted 7).pli.markE = true ∧ (counted 7).pli.givenVeto.toNat + 1 = 8
      ∧ (counted 7).hand.withdrawal = none) := by decide +kernel

theorem witness_VetoOfTheOwnFrame_counts :
    let counted (n : BitVec 4) : State := { ownSlot with pli := { ownSlot.pli with ownVeto := n } }
    (ownSlot.resetHeld = false ∧ ownSlot.pli.line = .veto ∧ ownSlot.pli.sent = some (frame 2 (.claim 2 17 .x true))
      ∧ ownSlot.pli.part = true ∧ ownSlot.sched.onLine = .item (.lock .claim 2 17) ∧ ownSlot.pli.markE = false)
    ∧ (counted 14).pli.ownVeto.toNat + 1 < 16
    ∧ (counted 15).pli.ownVeto.toNat + 1 = 16 ∧ (counted 15).hand.withdrawal = none := by decide +kernel

/-- The item stays; a held replacement; a rescinded item; the ALIVE that stands on no list; no part any more. -/
theorem witness_VetoOfTheOwnFrame_items :
    let held := { ownSlot with
      sched := { resetSched with
        control := [.membership .found], onLine := .item (.control .membership), held := some .join } }
    let gone := { ownSlot with sched := { ownSlot.sched with rescinded := true } }
    let alive := { ownSlot with sched := { resetSched with onLine := .unlisted } }
    (ownSlot.sched.rescinded = false ∧ ownSlot.sched.held = none ∧ ownSlot.pli.part = true)
    ∧ (held.sched.rescinded = false ∧ held.sched.held = some .join
      ∧ held.sched.onLine = .item (.control .membership))
    ∧ (gone.sched.rescinded = true ∧ gone.sched.onLine = .item (.lock .claim 2 17))
    ∧ (alive.pli.part = true ∧ ∀ id, alive.sched.onLine ≠ .item id)
    ∧ ({ ownSlot with pli := { ownSlot.pli with part := false } } : State).pli.part = false :=
  ⟨by decide +kernel, by decide +kernel, by decide +kernel, ⟨by decide +kernel, nofun⟩, rfl⟩

/-! ### Witnesses: the Send Scheduler -/

/-- 06 Table 6-3, the fifth row: the donor item marked and not ready, EVICT 7 behind it. -/
theorem witness_SchedulerChoosesAndRemovesByItsLists_choice :
    let c : Sched := { resetSched with
      control := [.donor, .evict 7 33], locks := [.withdraw 0 40], retry := some (.control .donor) }
    (c.retry = some (.control .donor) ∧ c.holds (.control .donor) = true
      ∧ (ItemId.control .donor = .control .donor → true = true))
    ∧ (c.control = [.donor] ++ .evict 7 33 :: [] ∧ (ControlItem.evict 7 33).id ≠ .control .donor
      ∧ ∀ j ∈ [ControlItem.donor], ¬ (j.id = .control .donor → false = true))
    ∧ ∀ i ∈ [ControlItem.donor], ¬ (i.id = .control .donor → false = true) := by decide

theorem witness_SchedulerChoosesAndRemovesByItsLists_lists :
    let c : Sched := { resetSched with control := [.donor, .evict 7 33], onLine := .item (.control (.evict 7)) }
    (∃ j ∈ c.control, j.purpose = (ControlItem.evict 7 34).purpose)
    ∧ (∀ j ∈ c.control, j.purpose ≠ ControlItem.alive.purpose)
    ∧ c.onLine = .item (.control (.evict 7))
    ∧ (c.onLine ≠ .item (.control .donor) ∧ c.holds (.control .donor) = true)
    ∧ (c.onLine ≠ .item (.control .alive) ∧ c.holds (.control .alive) = false) := by decide

/-! ### Witnesses: applications -/

theorem witness_RegrantGrantsFromTheHead :
    let a : LockEntry := ⟨.free, [], [x 4 3, sh 1 2]⟩
    let b : LockEntry := ⟨.shared, [⟨5, 0⟩], [sh 1 2, x 4 3]⟩
    a.regrant.2 = x 4 3 :: [] ∧ (x 4 3).mode = .x
      ∧ b.regrant.2 = sh 1 2 :: [] ∧ (sh 1 2).mode = .s ∧ b.regrant.1.waiters = x 4 3 :: []
      ∧ (⟨.excl, [⟨5, 0⟩], [sh 1 2]⟩ : LockEntry).regrant.2 = []
      ∧ (⟨.free, [], [sh 1 2, sh 6 0]⟩ : LockEntry).regrant.2 = [sh 1 2] ++ sh 6 0 :: [] := by decide

/-- A frame of this body from station v stands at the head of station 6's apply queue. -/
def at6 (v : Station) (b : FrameBody) : State := withQueue joinings [frame v b, frame 1 .alive]

theorem witness_ApplyClaimDecidedByTheEntry_skipped :
    let s := withLock (at6 1 (.claim 0 9 .x true)) 9 unknownEntry
    let l := withQueue (loading9 true 31 1) [frame 9 (.claim 0 9 .x true)]
    (Takes s (frame 1 (.claim 0 9 .x true)) [frame 1 .alive] ∧ s.replica.fabric ≠ none
      ∧ s.replica.members[(1 : Station)].state ≠ .absent ∧ (s.replica.entry 9).state = .unknown)
    ∧ (Takes l (frame 9 (.claim 0 9 .x true)) [] ∧ l.replica.fabric ≠ none
      ∧ l.replica.members[(9 : Station)].state ≠ .absent ∧ l.replica.members[(9 : Station)].state ≠ .member) := by
  unfold Takes; decide +kernel

/-- Station 1's claim 1.0 at an entry. -/
theorem witness_ApplyClaimDecidedByTheEntry_decided :
    let s (e : LockEntry) (m : Mode) (w : Bool) : State := withLock (at6 1 (.claim 0 9 m w)) 9 e
    let full : LockEntry := ⟨.shared, [⟨2, 0⟩, ⟨2, 1⟩, ⟨2, 2⟩, ⟨2, 3⟩, ⟨2, 4⟩, ⟨2, 5⟩, ⟨2, 6⟩], []⟩
    let busy : LockEntry := ⟨.excl, [⟨2, 0⟩], []⟩
    let deep : LockEntry := ⟨.excl, [⟨2, 0⟩], (List.finRange 16).map fun o => x 5 o⟩
    let c : Claimant := ⟨1, 0⟩
    (Takes (s ⟨.free, [], []⟩ .x true) (frame 1 (.claim 0 9 .x true)) [frame 1 .alive]
      ∧ (s ⟨.free, [], []⟩ .x true).replica.fabric ≠ none
      ∧ (s ⟨.free, [], []⟩ .x true).replica.members[(1 : Station)].state = .member
      ∧ ((s ⟨.free, [], []⟩ .x true).replica.entry 9) = ⟨.free, [], []⟩)
    ∧ (c ∈ [c] ∧ c ∈ [x 1 0].map Waiter.claimant)
    ∧ (c ∉ full.holders ∧ c ∉ full.waiters.map Waiter.claimant ∧ full.state = .shared ∧ full.holders.length < 8)
    ∧ (c ∉ busy.holders ∧ busy.grantable .s = false ∧ ((s busy .s false).replica.entry 9) = busy)
    ∧ (c ∉ deep.waiters.map Waiter.claimant ∧ deep.grantable .x = false ∧ 16 ≤ deep.waiters.length
      ∧ ((s deep .x true).replica.entry 9) = deep) := by unfold Takes; decide +kernel

/-- At station 6, where station 9 loads with its cursor at 31, and at station 9 itself. -/
def poolTested (v : Station) : State :=
  let r := (loading9 true 31 1).replica
  let s := if v = 9 then inState (member 9 []) (.joining .loading) else member v []
  withQueue { s with replica := r } [frame 6 (.claim 2 10 .x true)]

theorem witness_ApplyClaimAtThePoolTest_hypotheses :
    let f := frame 6 (.claim 2 10 .x true)
    let s := poolTested 6
    let j := poolTested 9
    (Takes s f [] ∧ s.replica.fabric ≠ none ∧ s.replica.members[f.sender].state = .member
      ∧ (s.replica.entry 10).state ≠ .unknown ∧ (⟨f.sender, 2⟩ : Claimant) ∉ (s.replica.entry 10).holders
      ∧ (⟨f.sender, 2⟩ : Claimant) ∉ (s.replica.entry 10).waiters.map Waiter.claimant
      ∧ (s.replica.entry 10).grantable .x = false ∧ (s.replica.entry 10).waiters.length < 16)
    ∧ (Takes j f [] ∧ j.replica = s.replica
      ∧ j.replica.members[j.straps.station].state = .joining true 31 ∧ (10 : Byte).toNat < 31)
    ∧ s.replica.members[s.straps.station].state = .member := by unfold Takes; decide +kernel

/-- Fifteen records of station 6 and none; sixteen; a pool of 128. -/
theorem witness_ApplyClaimAtThePoolTest_limits :
    let locks (n k : Nat) : List LockEntry :=
      (List.range 64).map fun l =>
        if l < n then ⟨.excl, [⟨1, 0⟩], (List.finRange 16).map fun o => x 5 o⟩
        else if l = 10 then ⟨.excl, [⟨1, 0⟩], []⟩
        else if l = 11 then ⟨.excl, [⟨1, 0⟩], ((List.finRange 16).take k).map fun o => x 6 o⟩
        else ⟨.free, [], []⟩
    let s (n k : Nat) : Replica := { (poolTested 6).replica with locks := locks n k }
    ((s 0 15).poolUse < 128 ∧ (s 0 15).stationUse 6 < 16) ∧ ((s 0 16).poolUse < 128 ∧ 16 ≤ (s 0 16).stationUse 6)
      ∧ (s 8 0).poolUse = 128 ∧ (s 8 0).entry 10 = ⟨.excl, [⟨1, 0⟩], []⟩ := by decide +kernel

theorem witness_ApplyFreeAndWithdrawRegrant :
    let s := withLock (at6 1 (.free 0 9)) 9 ⟨.excl, [⟨1, 0⟩], [x 6 2]⟩
    let n := withLock (at6 1 (.free 0 9)) 9 ⟨.excl, [⟨6, 2⟩], []⟩
    let w := withLock (at6 1 (.withdraw 0 9)) 9 ⟨.excl, [⟨6, 2⟩], [x 1 0]⟩
    let h := withLock (at6 1 (.withdraw 0 9)) 9 ⟨.excl, [⟨1, 0⟩], []⟩
    let u := withLock (at6 1 (.withdraw 0 9)) 9 unknownEntry
    (Takes s (frame 1 (.free 0 9)) [frame 1 .alive] ∧ s.replica.fabric ≠ none
      ∧ s.replica.members[(1 : Station)].state ≠ .absent ∧ (s.replica.entry 9).state ≠ .unknown
      ∧ (⟨1, 0⟩ : Claimant) ∈ (s.replica.entry 9).holders)
    ∧ (⟨1, 0⟩ : Claimant) ∉ (n.replica.entry 9).holders
    ∧ (Takes w (frame 1 (.withdraw 0 9)) [frame 1 .alive] ∧ w.replica.fabric ≠ none
      ∧ w.replica.members[(1 : Station)].state ≠ .absent ∧ (w.replica.entry 9).state ≠ .unknown
      ∧ (⟨1, 0⟩ : Claimant) ∈ (w.replica.entry 9).waiters.map Waiter.claimant)
    ∧ ((⟨1, 0⟩ : Claimant) ∉ (h.replica.entry 9).waiters.map Waiter.claimant
      ∧ (⟨1, 0⟩ : Claimant) ∈ (h.replica.entry 9).holders)
    ∧ (⟨1, 0⟩ : Claimant) ∉ (n.replica.entry 9).waiters.map Waiter.claimant
    ∧ (Takes u (frame 1 (.withdraw 0 9)) [frame 1 .alive] ∧ (u.replica.entry 9).state = .unknown) := by
  unfold Takes; decide +kernel

theorem witness_RemovalOfAStationAtEveryLock :
    lock9.replica.locks[9]? = some ⟨.shared, [⟨2, 1⟩, ⟨5, 0⟩], [x 4 3, sh 1 2, sh 6 0, x 3 3]⟩
      ∧ (emptyReplica ⟨1, 0, false, 0⟩).locks[63]? = some unknownEntry := by decide +kernel

/-- A JOIN of station 9 at station 6. -/
def asked (s : State) : State := withQueue s [⟨9, .joining, 500, .join digest⟩]

theorem witness_ApplyJoinOrFoundAtAFabric :
    let f : Frame := ⟨9, .joining, 500, .join digest⟩
    let others : List Station := (List.finRange 16).filter fun v => v ≠ 9
    let fourteen := withList (asked joinings) (others.drop 1)
    let full := withList (asked joinings) others
    let listed := asked (loading9 true 31 1)
    let refused := asked (withList (withRecord joinings 9 ⟨.refuseDue .period, 1⟩) [9])
    let back := asked (withRecord joinings 9 ⟨.member, 88⟩)
    let found := withQueue joinings [⟨9, .founding, 500, .found digest⟩]
    (Takes fourteen f [] ∧ f.body = .join digest ∧ fourteen.replica.fabric = some ⟨digest, 1⟩
      ∧ fourteen.replica.members[(9 : Station)].state = .absent ∧ fourteen.replica.joinList.length = 14)
    ∧ (Takes full f [] ∧ full.replica.members[(9 : Station)].state = .absent ∧ full.replica.joinList.length = 15)
    ∧ (Takes listed f [] ∧ listed.replica.members[(9 : Station)].state = .joining true 31)
    ∧ (Takes refused f [] ∧ refused.replica.members[(9 : Station)].state = .refuseDue .period)
    ∧ (Takes back f [] ∧ back.replica.members[(9 : Station)].state = .member ∧ (9 : Station) ∉ back.replica.joinList)
    ∧ (withList back others).replica.joinList.length = 15 ∧ (9 : Station) ∉ (withList back others).replica.joinList
    ∧ Takes found ⟨9, .founding, 500, .found digest⟩ [] := by unfold Takes; decide +kernel

theorem witness_ApplyJoinAndFoundWithoutAFabric :
    let s (v : Station) (st : StationState) (latch : Bool) (b : FrameBody) : State :=
      withQueue { station v with join := { resetJoin with state := st, latch := latch } } [⟨3, .founding, 0, b⟩]
    let own := s 3 .founding false (.found digest)
    (Takes own ⟨3, .founding, 0, .found digest⟩ [] ∧ own.replica.fabric = none ∧ own.join.latch = false
      ∧ own.join.state = .founding ∧ (3 : Station) = own.straps.station)
    ∧ (Takes (s 3 .founding true (.found digest)) ⟨3, .founding, 0, .found digest⟩ []
      ∧ (s 3 .founding true (.found digest)).join.latch = true)
    ∧ (Takes (s 7 .founding false (.found digest)) ⟨3, .founding, 0, .found digest⟩ []
      ∧ (3 : Station) ≠ (s 7 .founding false (.found digest)).straps.station)
    ∧ Takes (s 3 (.joining .sendJoin) true (.join digest)) ⟨3, .founding, 0, .join digest⟩ []
    ∧ Takes (s 7 (.joining .sendJoin) true (.join digest)) ⟨3, .founding, 0, .join digest⟩ [] := by
  unfold Takes; decide +kernel

theorem witness_ApplyLeaveAndEvictRemoveAStation :
    let l := at6 1 .leave
    let e := at6 1 (.evict 9 2)
    let r := withRecord e 9 ⟨.member, 2⟩
    (Takes l (frame 1 .leave) [frame 1 .alive] ∧ l.replica.fabric ≠ none
      ∧ l.replica.members[(1 : Station)].state ≠ .absent)
    ∧ (Takes r (frame 1 (.evict 9 2)) [frame 1 .alive] ∧ (9 : Station) ≠ (frame 1 (.evict 9 2)).sender
      ∧ r.replica.members[(9 : Station)].state ≠ .absent ∧ r.replica.members[(9 : Station)].count = 2)
    ∧ (Takes e (frame 1 (.evict 9 2)) [frame 1 .alive] ∧ e.replica.members[(9 : Station)].state = .absent)
    ∧ (withRecord e 9 ⟨.member, 3⟩).replica.members[(9 : Station)].count ≠ 2 := by unfold Takes; decide +kernel

theorem witness_ApplyRefuseEndsARefusalDue :
    let f := frame 1 (.refuse 4 .period)
    let s := withQueue (loading9 true 31 1) [f]
    let n := at6 1 (.refuse 4 .period)
    let j := withQueue (inState (station 4) (.joining .awaitHead)) [f]
    let o := withQueue (inState (station 9) (.joining .awaitHead)) [f]
    (Takes s f [] ∧ s.replica.fabric ≠ none ∧ s.replica.members[f.sender].state = .member
      ∧ s.replica.members[(4 : Station)].state = .refuseDue .period)
    ∧ (Takes n f [frame 1 .alive] ∧ ∀ x, n.replica.members[(4 : Station)].state ≠ .refuseDue x)
    ∧ (Takes j f [] ∧ j.replica.fabric = none ∧ (4 : Station) = j.straps.station ∧ f.sender ≠ j.straps.station
      ∧ f.senderState = .member)
    ∧ (Takes o f [] ∧ o.replica.fabric = none ∧ (4 : Station) ≠ o.straps.station
      ∧ (⟨1, .leaving, 500, .refuse 4 .period⟩ : Frame).senderState ≠ .member) := by
  unfold Takes
  exact ⟨by decide +kernel, ⟨by decide +kernel, fun x h => by
    have : (at6 1 (.refuse 4 .period)).replica.members[(4 : Station)].state = .absent := by decide +kernel
    rw [this] at h; cases h⟩, by decide +kernel, by decide +kernel⟩

/-- SNAPHEAD(9) as station 1 sends it. -/
def head9 : SnapHead := ⟨9, digest, 1, (loading9 false 0 1).replica.members, [9, 4]⟩

theorem witness_ApplySnapshotFramesServeTheJoiner_head :
    let f := frame 1 (.snaphead head9)
    let s := withQueue (loading9 false 0 1) [f]
    let late := withQueue (loading9 true 0 1) [f]
    let own := withQueue (inState (station 9) (.joining .awaitHead)) [f]
    let other := withQueue (inState (station 4) (.joining .awaitHead)) [f]
    let again := withQueue { inState (member 9 []) (.joining .awaitHead) with replica := (loading9 false 0 1).replica } [f]
    (Takes again f [] ∧ again.replica.fabric ≠ none ∧ again.replica.members[f.sender].state = .member
      ∧ again.replica.joinList.head? = some head9.joiner ∧ head9.joiner = again.straps.station
      ∧ again.replica.members[head9.joiner].state = .joining false 0)
    ∧ (Takes s f [] ∧ s.replica.fabric ≠ none ∧ s.replica.members[f.sender].state = .member
      ∧ head9.joiner ≠ s.straps.station ∧ s.replica.joinList = head9.joiner :: [4]
      ∧ s.replica.members[head9.joiner].state = .joining false 0)
    ∧ (Takes late f [] ∧ late.replica.members[head9.joiner].state = .joining true 0)
    ∧ (Takes other f [] ∧ other.replica.fabric = none ∧ f.sender ≠ other.straps.station
      ∧ head9.joiner ≠ other.straps.station)
    ∧ (Takes own f [] ∧ own.replica.fabric = none ∧ f.sender ≠ own.straps.station ∧ f.senderState = .member
      ∧ head9.joiner = own.straps.station ∧ head9.members[head9.joiner].state = .joining false 0
      ∧ head9.members[f.sender].state = .member ∧ head9.joinList.head? = some head9.joiner) := by
  unfold Takes; decide +kernel

/-- The first SNAPDATA of Table 2-3, not the last; the last, from lock 40. -/
theorem witness_ApplySnapshotFramesServeTheJoiner_data :
    let first := fillEntries 0 94 (loading9 true 0 1).replica.locks
    let last := fillEntries 40 94 ((loading9 true 40 1).replica.locks.drop 40)
    let f := frame 1 (.snapdata 9 0 first)
    let g := frame 1 (.snapdata 9 40 last)
    let s := withQueue (loading9 true 0 1) [f]
    let t := withQueue (loading9 true 40 1) [g]
    (Takes s f [] ∧ s.replica.fabric = some ⟨digest, 1⟩ ∧ s.replica.members[f.sender].state = .member
      ∧ s.replica.joinList = 9 :: [4] ∧ s.replica.members[(9 : Station)].state = .joining true (0 : Byte).toNat
      ∧ (0 : Byte).toNat + first.length ≠ 64 * digest.space.toNat)
    ∧ (Takes t g [] ∧ t.replica.members[(9 : Station)].state = .joining true (40 : Byte).toNat
      ∧ (40 : Byte).toNat + last.length = 64 * digest.space.toNat)
    ∧ t.replica.members[(9 : Station)].state ≠ .joining true (0 : Byte).toNat := by unfold Takes; decide +kernel

theorem witness_ScreenAndCountOfApplications :
    let a := at6 1 .alive
    let u := at6 3 .alive
    let o := withQueue (inState (station 4) (.joining .awaitHead)) [frame 1 .leave]
    let d := withQueue (loading9 true 31 1) [frame 9 (.refuse 4 .period)]
    let own := withQueue (inState (station 4) .leaving) [frame 4 .leave]
    (Takes a (frame 1 .alive) [frame 1 .alive] ∧ a.replica.fabric ≠ none
      ∧ a.replica.members[(1 : Station)].state ≠ .absent)
    ∧ (Takes u (frame 3 .alive) [frame 1 .alive] ∧ u.replica.members[(3 : Station)].state = .absent)
    ∧ (Takes o (frame 1 .leave) [] ∧ o.replica.fabric = none ∧ (1 : Station) ≠ o.straps.station)
    ∧ (Takes d (frame 9 (.refuse 4 .period)) [] ∧ d.replica.fabric ≠ none
      ∧ d.replica.members[(9 : Station)].state = .joining true 31)
    ∧ (Takes own (frame 4 .leave) [] ∧ own.replica.fabric = none ∧ (4 : Station) = own.straps.station) := by
  unfold Takes; decide +kernel

/-! ### Witnesses: the Operations Unit -/

/-- Station 4 with an operation between two others. -/
def between (b : OpBody) : State := withLive (member 4 [4, 7]) [⟨8, .detach⟩, ⟨0x21, b⟩, ⟨9, .release 1 5 .outbound⟩]

/-- Station 4 with an ACQUIRE, its CANCEL further behind. -/
def cancelled (p : AcquirePhase) : State :=
  withLive (member 4 [4, 7]) [⟨0x21, .acquire (acqHeld p)⟩, ⟨9, .release 1 5 .outbound⟩, ⟨0x22, .cancel 2 17⟩]

theorem detach_apart :
    ∀ op ∈ [(⟨8, .detach⟩ : Operation)], op.isAcquire 2 17 = false ∧ op.isCancel 2 17 = false := by decide

theorem release_apart : ∀ op ∈ [(⟨9, .release 1 5 .outbound⟩ : Operation)], op.isCancel 2 17 = false := by decide

theorem others_apart :
    ∀ op ∈ [(⟨8, .detach⟩ : Operation), ⟨9, .release 1 5 .outbound⟩], op.isAcquire 2 17 = false := by decide

theorem behind_apart :
    ∀ op ∈ [(⟨9, .release 1 5 .outbound⟩ : Operation), ⟨0x22, .cancel 2 17⟩], op.isAcquire 2 17 = false := by decide

theorem between_lives (p : AcquirePhase) :
    AcquireLives (between (.acquire (acq p))).ops.live 0x21 (acq p) none [⟨8, .detach⟩, ⟨9, .release 1 5 .outbound⟩] :=
  ⟨[⟨8, .detach⟩], [⟨9, .release 1 5 .outbound⟩], rfl, detach_apart, rfl, rfl⟩

theorem cancelled_lives (p : AcquirePhase) :
    AcquireLives (cancelled p).ops.live 0x21 (acqHeld p) (some 0x22) [⟨9, .release 1 5 .outbound⟩] :=
  ⟨[], [⟨9, .release 1 5 .outbound⟩, ⟨0x22, .cancel 2 17⟩], rfl, nofun, rfl,
    [⟨9, .release 1 5 .outbound⟩], [], rfl, release_apart, rfl⟩

theorem between_becomes (p : AcquirePhase) (a : Acquire) :
    AcquireBecomes (between (.acquire (acq p))).ops.live
      [⟨8, .detach⟩, ⟨0x21, .acquire a⟩, ⟨9, .release 1 5 .outbound⟩] (acq p) a :=
  ⟨[⟨8, .detach⟩], [⟨9, .release 1 5 .outbound⟩], 0x21, rfl, others_apart, rfl⟩

theorem cancelled_becomes (p : AcquirePhase) (a : Acquire) :
    AcquireBecomes (cancelled p).ops.live
      [⟨0x21, .acquire a⟩, ⟨9, .release 1 5 .outbound⟩, ⟨0x22, .cancel 2 17⟩] (acqHeld p) a :=
  ⟨[], [⟨9, .release 1 5 .outbound⟩, ⟨0x22, .cancel 2 17⟩], 0x21, rfl, behind_apart, rfl⟩

theorem between_acquire (p : AcquirePhase) : (between (.acquire (acq p))).ops.acquire 2 17 = some (acq p) := rfl

theorem witness_NoticesMoveThePhase_onLineAcceptedVetoed :
    let s (e : NoticeEvent) : State := withNotices (between (.acquire (acq .onLine))) [⟨.claim, 2, 17, e⟩]
    ((s .onLine).resetHeld = false ∧ (s .onLine).hand.notices = ⟨.claim, 2, 17, .onLine⟩ :: [])
    ∧ (s .accepted).hand.notices = ⟨.claim, 2, 17, .accepted⟩ :: []
    ∧ ((s (.vetoed false)).hand.notices = ⟨.claim, 2, 17, .vetoed false⟩ :: []
      ∧ ∀ a, (s (.vetoed false)).ops.acquire 2 17 = some a → a.attached = false ∨ a.phase ≠ .onLine) :=
  ⟨⟨rfl, rfl⟩, rfl, rfl, fun a h => by
    have : some (acq .onLine) = some a := h
    cases this; exact .inl rfl⟩

/-- The veto of a WITHDRAW whose ACQUIRE carries a CANCEL, its item standing or removed. -/
theorem witness_NoticesMoveThePhase_withdrawVetoed :
    let s (removed : Bool) : State :=
      withNotices (cancelled (.withdrawing .cancel)) [⟨.withdraw, 2, 17, .vetoed removed⟩]
    ((s true).resetHeld = false ∧ (s true).hand.notices = ⟨.withdraw, 2, 17, .vetoed true⟩ :: []
      ∧ (s false).hand.notices = ⟨.withdraw, 2, 17, .vetoed false⟩ :: [])
    ∧ (s true).ops.acquire 2 17 = some (acqHeld (.withdrawing .cancel)) ∧ LockKind.withdraw ≠ .claim :=
  ⟨⟨rfl, rfl, rfl⟩, rfl, by decide⟩

/-- The CLAIM vetoed with a CANCEL attached: rescinded and removed, or standing in its list. -/
theorem witness_NoticesMoveThePhase_cancelled :
    let s (removed : Bool) : State :=
      { withNotices (cancelled .onLine) [⟨.claim, 2, 17, .vetoed removed⟩] with
        sched := { resetSched with locks := if removed then [] else [.claim 2 17 .x true] } }
    ((s true).resetHeld = false
      ∧ (s true).hand.notices = ⟨.claim, (acqHeld .onLine).owner, (acqHeld .onLine).lock, .vetoed true⟩ :: []
      ∧ AcquireLives (s true).ops.live 0x21 (acqHeld .onLine) (some 0x22) [⟨9, .release 1 5 .outbound⟩]
      ∧ (∀ op ∈ [(⟨9, .release 1 5 .outbound⟩ : Operation)], op.isAcquire 2 17 = false)
      ∧ (s true).sched.onLine ≠ .item (.lock .claim 2 17))
    ∧ (s false).hand.notices = ⟨.claim, 2, 17, .vetoed false⟩ :: []
    ∧ (s false).sched.holds (.lock .claim 2 17) = true :=
  ⟨⟨rfl, rfl, cancelled_lives .onLine, by decide, by decide⟩, rfl, by decide⟩

theorem witness_ClaimOutcomeDecidesTheAcquire_alone :
    let s (o : ClaimOutcome) : State := withOpsHand (between (.acquire (acq .applyWait))) [.claim 2 17 o]
    ((s .queued).resetHeld = false ∧ (s .queued).hand.ops = .claim 2 17 .queued :: [] ∧ (s .queued).hand.notices = []
      ∧ (acq .applyWait).phase = .applyWait ∧ (acq .applyWait).attached = false
      ∧ AcquireBecomes (s .queued).ops.live
          [⟨8, .detach⟩, ⟨0x21, .acquire (acq (.queued (.running 1000)))⟩, ⟨9, .release 1 5 .outbound⟩]
          (acq .applyWait) (acq (.queued (.running 1000))))
    ∧ (ClaimOutcome.granted, ResultCode.granted) ∈ [(ClaimOutcome.granted, ResultCode.granted)]
    ∧ AcquireLives (s .granted).ops.live 0x21 (acq .applyWait) none [⟨8, .detach⟩, ⟨9, .release 1 5 .outbound⟩] :=
  ⟨⟨rfl, rfl, rfl, rfl, rfl, between_becomes _ _⟩, by decide, between_lives _⟩

theorem witness_ClaimOutcomeDecidesTheAcquire_cancelled :
    let s (o : ClaimOutcome) : State := withOpsHand (cancelled .applyWait) [.claim 2 17 o]
    ((s .queued).resetHeld = false ∧ (s .queued).hand.ops = .claim 2 17 .queued :: [] ∧ (s .queued).hand.notices = []
      ∧ (acqHeld .applyWait).phase = .applyWait ∧ (acqHeld .applyWait).attached = true
      ∧ AcquireBecomes (s .queued).ops.live
          [⟨0x21, .acquire (acqHeld (.withdrawing .cancel))⟩, ⟨9, .release 1 5 .outbound⟩, ⟨0x22, .cancel 2 17⟩]
          (acqHeld .applyWait) (acqHeld (.withdrawing .cancel)))
    ∧ AcquireLives (s .busy).ops.live 0x21 (acqHeld .applyWait) (some 0x22) [⟨9, .release 1 5 .outbound⟩] :=
  ⟨⟨rfl, rfl, rfl, rfl, rfl, cancelled_becomes _ _⟩, cancelled_lives _⟩

theorem witness_FreeAndWithdrawOutcomesEndOperations_free :
    let s := withOpsHand (between (.release 2 17 .applyWait)) [.free 2 17 .released]
    s.resetHeld = false ∧ s.hand.ops = .free 2 17 .released :: [] ∧ s.hand.notices = []
      ∧ s.ops.live = [⟨8, .detach⟩] ++ ⟨0x21, .release 2 17 .applyWait⟩ :: [⟨9, .release 1 5 .outbound⟩]
      ∧ ∀ op ∈ [(⟨8, .detach⟩ : Operation)], op.body ≠ .release 2 17 .applyWait := by decide +kernel

/-- The timer's own, and one that a CANCEL waits for; and none that is WITHDRAWING. -/
theorem witness_FreeAndWithdrawOutcomesEndOperations_withdraw :
    let w : OpsHandOver := .withdraw 2 17 .withdrawn
    ((withOpsHand (between (.acquire (acq (.withdrawing .timer)))) [w]).hand.ops = w :: []
      ∧ (withOpsHand (between (.acquire (acq (.withdrawing .timer)))) [w]).resetHeld = false
      ∧ (withOpsHand (between (.acquire (acq (.withdrawing .timer)))) [w]).hand.notices = []
      ∧ AcquireLives (withOpsHand (between (.acquire (acq (.withdrawing .timer)))) [w]).ops.live 0x21
          (acq (.withdrawing .timer)) none [⟨8, .detach⟩, ⟨9, .release 1 5 .outbound⟩])
    ∧ AcquireLives (withOpsHand (cancelled (.withdrawing .cancel)) [w]).ops.live 0x21 (acqHeld (.withdrawing .cancel))
        (some 0x22) [⟨9, .release 1 5 .outbound⟩]
    ∧ ((withOpsHand (member 4 [4, 7]) [w]).hand.ops = w :: []
      ∧ (withOpsHand (member 4 [4, 7]) [w]).ops.acquire 2 17 = none) :=
  ⟨⟨rfl, rfl, rfl, between_lives _⟩, cancelled_lives _, rfl, rfl⟩

/-- QUEUED, WITHDRAWING with its WITHDRAW on the line, in its list and gone, and no ACQUIRE. -/
theorem witness_GrantNoticeGrantsTheAcquire :
    let g : OpsHandOver := .grant 2 17 .x
    let w : ItemId := .lock .withdraw 2 17
    let s (c : Sched) : State := { withOpsHand (cancelled (.withdrawing .cancel)) [g] with sched := c }
    let listed : Sched := { resetSched with locks := [.withdraw 2 17] }
    ((withOpsHand (between (.acquire (acq (.queued .stopped)))) [g]).resetHeld = false
      ∧ (withOpsHand (between (.acquire (acq (.queued .stopped)))) [g]).hand.ops = g :: []
      ∧ AcquireLives (withOpsHand (between (.acquire (acq (.queued .stopped)))) [g]).ops.live 0x21
          (acq (.queued .stopped)) none [⟨8, .detach⟩, ⟨9, .release 1 5 .outbound⟩])
    ∧ ((s listed).hand.ops = g :: []
      ∧ AcquireLives (s listed).ops.live 0x21 (acqHeld (.withdrawing .cancel)) (some 0x22)
          [⟨9, .release 1 5 .outbound⟩]
      ∧ (s { listed with onLine := .item w }).sched.onLine = .item w
      ∧ (s listed).sched.onLine ≠ .item w ∧ (s listed).sched.holds w = true ∧ (s resetSched).sched.holds w = false)
    ∧ (withOpsHand (member 4 [4, 7]) [g]).ops.acquire 2 17 = none :=
  ⟨⟨rfl, rfl, between_lives _⟩, ⟨rfl, cancelled_lives _, rfl, by decide, by decide, by decide⟩, rfl⟩

/-! ### Witnesses: the Join Controller -/

/-- The own FOUND that creates the fabric, without and with a live JOIN, and with a joiner on the list. -/
theorem witness_JoinAndFoundApplicationsMoveTheStation :
    let a := joining (.joining .sendJoin) .ownJoin
    let b := joining .founding (.ownFound false)
    let c (live : List Operation) : State := { withLive (joining .founding (.ownFound true)) live with
      replica := { foundedReplica 5 digest 64 with joinList := [9] } }
    let d (st : StationState) (l : Bool) : State :=
      { joining st .otherFound with join := { resetJoin with state := st, latch := l } }
    (a.resetHeld = false ∧ a.hand.join = .ownJoin :: [.dutyView none none none] ∧ a.join.state = .joining .sendJoin)
    ∧ (b.hand.join = .ownFound false :: [.dutyView none none none] ∧ b.join.state = .founding)
    ∧ ((c []).hand.join = .ownFound true :: [.dutyView none none none] ∧ (c []).join.state = .founding
      ∧ (after .ownFoundApplied (c [⟨7, .join⟩])).port.replies = [⟨7, .join, .done, []⟩]
      ∧ (after .ownFoundApplied (c [⟨8, .detach⟩])).port.replies = []
      ∧ (after .ownFoundApplied (c [])).sched.control = [.donor])
    ∧ ((d .founding false).resetHeld = false ∧ (d .founding false).hand.join = .otherFound :: [.dutyView none none none]
      ∧ (d .founding true).join.latch = true ∧ (d .founding false).join.latch = false
      ∧ (d .founding false).join.state = .founding
      ∧ (d (.joining .awaitHead) false).join.state = .joining .awaitHead
      ∧ (d (.joining .sendJoin) false).join.state = .joining .sendJoin) := by decide +kernel

/-- MEMBER with a live JOIN and without one, donor duty IDLE and ACTIVE. -/
theorem witness_LoadingReachesMember :
    let s (live : List Operation) : State := withLive (joining (.joining .loading) (.ownSnapdata true)) live
    let d := { s [] with replica := { fabricOf [5] with joinList := [9] } }
    let h := joining (.joining .awaitHead) .ownSnaphead
    let m := joining (.joining .loading) (.ownSnapdata false)
    ((s []).resetHeld = false ∧ (s []).hand.join = .ownSnapdata true :: [.dutyView none none none]
      ∧ (s []).join.state = .joining .loading
      ∧ (after .ownSnapdataTaken (s [⟨8, .detach⟩, ⟨7, .join⟩])).ops.live = [⟨8, .detach⟩]
      ∧ (after .ownSnapdataTaken (s [⟨8, .detach⟩])).ops.live = [⟨8, .detach⟩]
      ∧ (after .ownSnapdataTaken (s [])).join.duty = false)
    ∧ (after .ownSnapdataTaken d).join.duty = true
    ∧ (h.hand.join = .ownSnaphead :: [.dutyView none none none] ∧ h.join.state = .joining .awaitHead)
    ∧ (m.hand.join = .ownSnapdata false :: [.dutyView none none none] ∧ m.join.state = .joining .loading) := by
  decide +kernel

/-- The JOIN on the line, in the list and gone; the own record loading and MEMBER; removed at once and after a veto. -/
theorem witness_EarlySnapshotCancelsTheJoin :
    let s (h : JoinHandOver) (st : RecordState) (c : Sched) : State :=
      { withRecord (joining (.joining .sendJoin) h) 5 ⟨st, 1⟩ with sched := c }
    let m : ItemId := .control .membership
    let listed : Sched := { resetSched with control := [.membership .join] }
    let q := s .ownSnaphead (.joining true 62) listed
    let r (st : RecordState) : State :=
      { s .ownSnaphead st resetSched with hand := { resetHand with itemRemoved := true } }
    (q.resetHeld = false ∧ q.join.state = .joining .sendJoin ∧ q.hand.join = .ownSnaphead :: [.dutyView none none none]
      ∧ (s (.ownSnapdata true) .member listed).hand.join = .ownSnapdata true :: [.dutyView none none none]
      ∧ (s .ownSnaphead .member { listed with onLine := .item m }).sched.onLine = .item m
      ∧ q.sched.onLine ≠ .item m ∧ q.sched.holds m = true
      ∧ q.replica.members[q.straps.station].state = .joining true 62
      ∧ (s (.ownSnapdata true) .member listed).replica.members[(5 : Station)].state = .member
      ∧ (s .ownSnaphead .member resetSched).sched.holds m = false)
    ∧ ((r .member).resetHeld = false ∧ (r .member).hand.itemRemoved = true
      ∧ (r .member).join.state = .joining .sendJoin
      ∧ (r .member).replica.members[(r .member).straps.station].state = .member
      ∧ (r (.joining true 62)).replica.members[(5 : Station)].state = .joining true 62) := by decide +kernel

theorem witness_DonorDutyKeepsTheDonorItem :
    let s (head : Option Station) (c : Sched) : State :=
      { withJoinHand (member 1 [1, 6]) [.dutyView none (some 1) (head.map fun j => (j, ⟨.joining false 0, 0⟩))] with sched := c }
    let d : ItemId := .control .donor
    let listed : Sched := { resetSched with control := [.donor] }
    let on : Sched := { listed with onLine := .item d }
    ((s (some 9) resetSched).resetHeld = false
      ∧ (s (some 9) resetSched).hand.join = .dutyView none (some 1) (some (9, ⟨.joining false 0, 0⟩)) :: []
      ∧ (after .donorDutyEvaluation (s (some 9) listed)).join.duty = true
      ∧ (s (some 9) listed).sched.holds d = true ∧ (s (some 9) resetSched).sched.holds d = false
      ∧ (after .donorDutyEvaluation (s (some 9) resetSched)).join.duty = true)
    ∧ ((s none listed).hand.join = .dutyView none (some 1) none :: []
      ∧ (after .donorDutyEvaluation (s none resetSched)).join.duty = false
      ∧ (after .donorDutyEvaluation (s none listed)).join.duty = false ∧ (s none listed).sched.onLine ≠ .item d
      ∧ (after .donorDutyEvaluation (s none on)).join.duty = false ∧ (s none on).sched.onLine = .item d) := by
  decide +kernel

theorem witness_ApplicationsHandOverDropCauses :
    let a := joining (.joining .awaitHead) (.refused .period)
    let b := joining .leaving .ownLeave
    let c := joining .member .evictedSelf
    (a.resetHeld = false ∧ a.hand.join = .refused .period :: [.dutyView none none none]
      ∧ a.join.state = .joining .awaitHead)
    ∧ (b.resetHeld = false ∧ b.hand.join = .ownLeave :: [.dutyView none none none] ∧ b.join.state.participant = true)
    ∧ (c.resetHeld = false ∧ c.hand.join = .evictedSelf :: [.dutyView none none none]
      ∧ c.join.state.participant = true) := by decide +kernel

/-- A withdrawal with a live ACQUIRE, its CANCEL further behind; a LEAVE's drop; a station without auto-rejoin. -/
theorem witness_DropReturnsTheStationToOut :
    let r : Operation := ⟨9, .release 1 5 .outbound⟩
    let k : Operation := ⟨0x22, .cancel 2 17⟩
    let q : Operation := ⟨0x21, .acquire (acqHeld .onLine)⟩
    let s := withLive withdrawing [q, r, k]
    let l := { member 5 [2, 5, 8] with hand := { resetHand with dropCause := some .left } }
    (s.resetHeld = false ∧ s.hand.dropCause = none ∧ s.hand.withdrawal = some .withdrawnRx
      ∧ s.join.state.participant = true ∧ s.hand.ops = [] ∧ s.hand.join = [] ∧ s.hand.monitor = []
      ∧ (after .drop s).port.replies.map Reply.tag = [0x21, 0x22, 9] ∧ s.settings = some ⟨10, 3, true⟩)
    ∧ Completed (fun _ => True) s.ops.live [q, k, r] []
    ∧ (l.resetHeld = false ∧ l.hand.dropCause = some .left ∧ l.join.state.participant = true ∧ l.hand.ops = []
      ∧ l.hand.join = [] ∧ l.hand.monitor = [] ∧ l.ops.live = [])
    ∧ ∀ c, ({ l with settings := some ⟨10, 3, false⟩ } : State).settings = some c → c.autoRejoin = false :=
  ⟨by decide +kernel,
    .withCancel 0x21 0x22 (acqHeld .onLine) [⟨9, .release 1 5 .outbound⟩] [] [⟨9, .release 1 5 .outbound⟩] [] trivial rfl
      (fun c h => by cases List.mem_singleton.mp h; nofun)
      (.alone ⟨9, .release 1 5 .outbound⟩ [] [] [] trivial (fun a h => by cases h) .nil),
    by decide +kernel, fun c h => by cases h; rfl⟩

/-! ### Witnesses: the Presence Monitor -/

/-- Station 2 of Table 8-3 with one hand-over; record 9 has just become JOINING, record 8 ABSENT. -/
def told (h : MonitorHandOver) : State := { silent with hand := { silent.hand with monitor := [h] } }

theorem witness_HandOverMovesTheCountdowns :
    let h : MonitorHandOver := ⟨5, [(8, .absent), (9, .joining)], [(5, 7), (8, 0)]⟩
    let s := told h
    let o := told ⟨2, [], [(2, 7)]⟩
    (s.resetHeld = false ∧ s.hand.monitor = h :: [] ∧ s.hand.join = [] ∧ EarlierCountersDone s 16
      ∧ s.monitor.isolation ≠ .due ∧ s.replica.fabric ≠ none ∧ ((8 : Station), RecordTag.absent) ∈ h.changes
      ∧ ((9 : Station) ≠ s.straps.station ∧ ((9 : Station), RecordTag.absent) ∉ h.changes
        ∧ s.monitor.countdowns[(9 : Station)] = .stopped)
      ∧ ((5 : Station), RecordTag.absent) ∉ h.changes ∧ s.monitor.countdowns[(5 : Station)] ≠ .stopped
      ∧ h.sender ≠ s.straps.station)
    ∧ (o.hand.monitor = ⟨2, [], [(2, 7)]⟩ :: [] ∧ (2 : Station) = o.straps.station
      ∧ ((5 : Station) ≠ o.straps.station ∧ o.replica.members[(5 : Station)].state ≠ .absent))
    ∧ (∀ v : Station, v ≠ s.straps.station →
        ({ o with replica := fabricOf [2] } : State).replica.members[v].state = .absent)
    ∧ ((∀ c, ((9 : Station), c) ∉ h.counts) ∧ h.counts = [(5, 7)] ++ (8, 0) :: []
      ∧ ∀ c, ((8 : Station), c) ∉ ([] : List (Station × Byte))) :=
  ⟨by unfold EarlierCountersDone; decide +kernel, by decide +kernel, by decide +kernel,
    fun c h => by simp at h, rfl, nofun⟩

/-- Record 8 made ABSENT by a frame of station 5: EVICT 8 in the list with the retry mark, and on the line. -/
theorem witness_HandOverQueuesAndTakesBackEvicts_takesBack :
    let h : MonitorHandOver := ⟨5, [(8, .absent)], [(5, 7), (8, 0)]⟩
    let e : ItemId := .control (.evict 8)
    let s := { told h with
      sched := { resetSched with control := [.evict 8 57, .donor, .evict 5 3], retry := some e } }
    let o := { s with sched := { s.sched with retry := none, onLine := .item e } }
    (s.resetHeld = false ∧ s.hand.monitor = h :: [] ∧ s.hand.join = [] ∧ EarlierCountersDone s 16
      ∧ s.monitor.isolation ≠ .due ∧ h.sender ≠ s.straps.station ∧ ((8 : Station), RecordTag.absent) ∈ h.changes
      ∧ s.sched.onLine ≠ .item e ∧ s.sched.holds e = true ∧ s.sched.retry = some e
      ∧ (after .presenceHandOver s).sched.control = [.donor] ∧ (after .presenceHandOver s).sched.retry = none)
    ∧ (o.sched.onLine = .item e ∧ (after .presenceHandOver o).sched.control = [.evict 8 57, .donor]
      ∧ (after .presenceHandOver o).sched.rescinded = true)
    ∧ ∀ v : Station, o.sched.retry ≠ some (.control (.evict v)) := by
  unfold EarlierCountersDone; decide +kernel

/-- Station 8's countdown has expired; a hand-over of station 5's frame waits. -/
def reheard : State :=
  { told ⟨5, [], [(5, 7)]⟩ with
    monitor := { silent.monitor with countdowns := silent.monitor.countdowns.set 8 .expired } }

/-- A countdown is loaded, or created, and EVICT 8 is queued with the count held. -/
theorem witness_HandOverQueuesAndTakesBackEvicts_queues :
    let c := { reheard with hand := { resetHand with monitor := [⟨2, [(9, .joining)], [(2, 7)]⟩] } }
    (reheard.resetHeld = false ∧ reheard.hand.monitor = ⟨5, [], [(5, 7)]⟩ :: [] ∧ reheard.hand.join = []
      ∧ EarlierCountersDone reheard 16 ∧ reheard.monitor.isolation ≠ .due ∧ reheard.replica.fabric ≠ none
      ∧ reheard.monitor.countdowns[(8 : Station)] = .expired
      ∧ reheard.monitor.countdowns[(5 : Station)] ≠ .stopped
      ∧ (after .presenceHandOver reheard).sched.control = [.evict 8 57])
    ∧ (c.monitor.countdowns[(9 : Station)] = .stopped
      ∧ (after .presenceHandOver c).sched.control = [.evict 8 57]) := by
  unfold EarlierCountersDone; decide +kernel

/-! ### Witnesses: the host -/

theorem witness_RequestBufferTransitions :
    let s (b : RequestBuffer) : State := { member 4 [4, 7] with port := { resetPort with buffer := b } }
    ((s .empty).resetHeld = false ∧ Timely timely ∧ (s .empty).port.buffer = .empty
      ∧ requestKindOf 10 = some .ack ∧ requestKindOf 11 = none ∧ requestKindOf 0 = none)
    ∧ ((s (.filling .acquire [1, 2, 3])).port.buffer = .filling .acquire [1, 2, 3]
      ∧ [1, 2, 3].length + 1 < RequestKind.acquire.argCount ∧ [1, 2, 3, 4].length + 1 = RequestKind.acquire.argCount)
    ∧ (s (.complete .ack [1])).port.buffer = .complete .ack [1]
    ∧ ((⟨true, 9⟩ : HostAccess).bothStrobes = true ∧ (⟨false, 3⟩ : HostAccess).idleCycles < 4) := by
  unfold Timely; decide +kernel

theorem witness_ReplyReadReturnsTheNextByte :
    let r : Reply := ⟨0x21, .acquire, .granted, []⟩
    ((reading 2).resetHeld = false ∧ Timely timely ∧ (reading 2).port.replies = r :: []
      ∧ (reading 2).port.readPos + 1 < r.bytes.length ∧ (reading 3).port.readPos + 1 = r.bytes.length)
    ∧ (member 4 [4, 7]).port.replies = []
    ∧ ((⟨1, .queryMembers, .done, List.replicate 63 0⟩ : Reply).data.length ≤ 63)
    ∧ ((after .hardwareReset State.reset).resetHeld = true ∧ ¬ Timely ⟨false, 3⟩ ∧ ¬ Timely ⟨true, 4⟩) := by
  unfold Timely; decide +kernel

theorem witness_RequestsWaitOrAreNotConfigured :
    let r : Reply := ⟨0x21, .acquire, .granted, []⟩
    let full := { withBuffer (member 4 [4, 7]) .ack [1] with
      port := { resetPort with buffer := .complete .ack [1], replies := List.replicate 32 r } }
    32 ≤ full.ops.live.length + full.port.replies.length
    ∧ (Standing (withBuffer State.reset .ack [1]) .ack [1] ∧ State.reset.join.state = .unconfigured
      ∧ RequestKind.ack ≠ .setup ∧ RequestKind.ack ≠ .queryStation) := by unfold Standing; decide +kernel

/-- The least P and M, the greatest M, P and M beyond their range, a bit that must be 0. -/
theorem witness_SetupConfiguresTheStation :
    let good (p m flags : Byte) : Prop := 4 ≤ p.toNat ∧ 2 ≤ m.toNat ∧ m.toNat ≤ 8 ∧ flags &&& 0x70 = 0
    (Standing (withBuffer State.reset .setup [4, 2, 0x8F]) .setup [4, 2, 0x8F] ∧ good 4 2 0x8F ∧ good 255 8 0
      ∧ ¬ good 3 2 0 ∧ ¬ good 4 9 0 ∧ ¬ good 4 2 0x10)
    ∧ (Standing (withBuffer (member 4 [4, 7]) .setup [4, 2, 0]) .setup [4, 2, 0]
      ∧ (member 4 [4, 7]).join.state ≠ .unconfigured) := by unfold Standing; decide +kernel

theorem witness_JoinAndDetachTakenInTheirState :
    let out := inState (station 5) .out
    let m := member 4 [4, 7]
    (Standing (withBuffer out .join [7]) .join [7] ∧ out.join.state = .out)
    ∧ (Standing (withBuffer m .join [7]) .join [7] ∧ m.join.state ≠ .out ∧ m.join.state ≠ .unconfigured)
    ∧ (Standing (withBuffer out .detach [9]) .detach [9] ∧ out.join.state ≠ .member
      ∧ out.join.state ≠ .unconfigured)
    ∧ (Standing (withBuffer m .detach [9]) .detach [9] ∧ m.join.state = .member) := by
  unfold Standing; decide +kernel

/-- A DETACH in MEMBER with the CLAIM of an ACQUIRE in the lock list, marked, and a FREE on the line. -/
theorem witness_JoinAndDetachTakenInTheirState_flush :
    let a : Operation := ⟨0x21, .acquire (acq .outbound)⟩
    let r : Operation := ⟨0x22, .release 1 5 .outbound⟩
    let c : Sched := { resetSched with
      control := [.donor], locks := [.claim 2 17 .x true, .free 1 5]
      retry := some (.lock .claim 2 17), onLine := .item (.lock .free 1 5) }
    let flushed (op : Operation) : Prop := ∃ id, outboundWith op id = true ∧ c.holds id = true ∧ c.onLine ≠ .item id
    Completed flushed [a, r] [a] [r]
    ∧ (c.holds (.lock .claim 2 17) = true ∧ outboundWith a (.lock .claim 2 17) = true)
    ∧ ((ItemId.control .donor ≠ .control .donor ∨ c.onLine ≠ .item (.control .donor))
      ∧ c.holds (.control .donor) = true)
    ∧ (ItemId.lock .claim 2 18 ≠ .control .donor ∧ ∀ op ∈ [a], outboundWith op (.lock .claim 2 18) = false) :=
  ⟨.alone _ _ _ _ ⟨.lock .claim 2 17, by decide⟩ (fun q h hq => by cases h; cases hq)
      (.stays _ _ _ _ (by
        rintro ⟨id, h, -, h'⟩
        match id, h, h' with
        | .lock .free o l, h, h' =>
          simp only [outboundWith, Bool.and_eq_true, decide_eq_true_eq] at h
          obtain ⟨⟨-, rfl⟩, rfl⟩ := h
          exact h' rfl) .nil),
    by decide, by decide, by decide⟩

/-- Station 4 with an ACQUIRE of owner 2 at lock 17: C2H is X with wait, 02H is S without, 42H is S with wait. -/
def acquiring (s : State) (b l : Byte) : State := withBuffer s .acquire [0x21, b, l, 0xE8, 0x03]

theorem witness_AcquireIsCheckedThenClaimed_refused :
    let m := member 4 [4, 7]
    let held (d : Nat) (mode : Mode) : State := withHolds m [⟨17, 2, mode, d, false⟩]
    let load (n : Nat) : State := withHolds m (List.replicate n ⟨16, 1, .x, 1, false⟩)
    (Standing (acquiring (inState m .leaving) 0xC2 17) .acquire [0x21, 0xC2, 17, 0xE8, 0x03]
      ∧ (inState m .leaving).join.state ≠ .unconfigured ∧ (inState m .leaving).join.state ≠ .member)
    ∧ (Standing (acquiring m 0xD2 64) .acquire [0x21, 0xD2, 64, 0xE8, 0x03] ∧ m.join.state = .member
      ∧ (0xD2 : Byte) &&& 0x30 ≠ 0 ∧ (0xC2 : Byte) &&& 0x30 = 0 ∧ lockSpace m.straps ≤ (64 : Byte).toNat
      ∧ (63 : Byte).toNat < lockSpace m.straps)
    ∧ ((held 1 .s).ops.held 2 17 = some ⟨17, 2, .s, 1, false⟩ ∧ (held 8 .x).ops.held 2 17 = some ⟨17, 2, .x, 8, false⟩
      ∧ (held 7 .x).ops.held 2 17 = some ⟨17, 2, .x, 7, false⟩)
    ∧ ((between (.acquire (acq .onLine))).ops.acquire 2 17 ≠ none ∧ (between (.acquire (acq .onLine))).ops.held 2 17 = none)
    ∧ ((load 64).ops.held 2 17 = none ∧ (load 64).ops.acquire 2 17 = none ∧ 64 ≤ (load 64).ops.holds.length) := by
  unfold Standing; decide +kernel

/-- BUSY at once; and a CLAIM: with wait, behind a RELEASING record, at an UNKNOWN entry, where grantable. -/
theorem witness_AcquireIsCheckedThenClaimed_claimed :
    let m := acquiring (withLock (member 4 [4, 7]) 17 ⟨.excl, [⟨7, 0⟩], []⟩) 0x02 17
    let r := withHolds m [⟨17, 2, .x, 1, true⟩]
    let u := withLock m 17 unknownEntry
    let f := withLock m 17 ⟨.free, [], []⟩
    (Standing m .acquire [0x21, 0x02, 17, 0xE8, 0x03] ∧ m.join.state = .member ∧ (0x02 : Byte).getLsbD 6 = false
      ∧ m.ops.held 2 17 = none ∧ m.ops.acquire 2 17 = none ∧ m.ops.holds.length < 64
      ∧ m.ops.releasing 2 17 = false ∧ (m.replica.entry 17).state ≠ .unknown
      ∧ (m.replica.entry 17).grantable .s = false)
    ∧ (0xC2 : Byte).getLsbD 6 = true
    ∧ (r.ops.held 2 17 = none ∧ r.ops.releasing 2 17 = true)
    ∧ (u.replica.entry 17).state = .unknown ∧ (f.replica.entry 17).grantable .s = true := by
  unfold Standing; decide +kernel

theorem witness_ReleaseLowersOrFrees :
    let s (d : Nat) : State := withBuffer (withHolds (member 4 [4, 7]) [⟨17, 2, .x, d, false⟩]) .release [13, 0x02, 17]
    let n := withBuffer (member 4 [4, 7]) .release [13, 0x02, 17]
    (Standing (s 1) .release [13, 0x02, 17] ∧ (s 1).join.state ≠ .unconfigured ∧ (0x02 : Byte) &&& 0xF0 = 0
      ∧ (17 : Byte).toNat < lockSpace (s 1).straps ∧ (s 1).ops.held 2 17 = some ⟨17, 2, .x, 1, false⟩)
    ∧ (Standing (s 2) .release [13, 0x02, 17] ∧ (s 2).ops.held 2 17 = some ⟨17, 2, .x, 2, false⟩)
    ∧ (Standing n .release [13, 0x02, 17] ∧ n.ops.held 2 17 = none)
    ∧ (Standing (withBuffer n .release [13, 0x12, 64]) .release [13, 0x12, 64] ∧ (0x12 : Byte) &&& 0xF0 ≠ 0
      ∧ lockSpace n.straps ≤ (64 : Byte).toNat) := by unfold Standing; decide +kernel

/-- A CANCEL of owner 2 at lock 17, at a station. -/
def cancelling (s : State) : State := withBuffer s .cancel [0x22, 0x02, 17]

theorem standing_cancelling (p : AcquirePhase) :
    Standing (cancelling (between (.acquire (acq p)))) .cancel [0x22, 0x02, 17] :=
  ⟨rfl, rfl, by show 3 + 0 < 32; decide⟩

/-- No target; a target in WITHDRAWING; one that carries a CANCEL; and bad arguments. -/
theorem witness_CancelActsByTheTargetsPhase_refused :
    (Standing (cancelling (member 4 [4, 7])) .cancel [0x22, 0x02, 17]
      ∧ (cancelling (member 4 [4, 7])).join.state ≠ .unconfigured ∧ (0x02 : Byte) &&& 0xF0 = 0
      ∧ (17 : Byte).toNat < lockSpace (cancelling (member 4 [4, 7])).straps
      ∧ (cancelling (member 4 [4, 7])).ops.acquire 2 17 = none)
    ∧ (cancelling (between (.acquire (acq (.withdrawing .timer))))).ops.acquire 2 17 = some (acq (.withdrawing .timer))
    ∧ ((cancelling (cancelled .onLine)).ops.acquire 2 17 = some (acqHeld .onLine) ∧ (acqHeld .onLine).attached = true)
    ∧ (Standing (withBuffer (member 4 [4, 7]) .cancel [0x22, 0x12, 64]) .cancel [0x22, 0x12, 64]
      ∧ (0x12 : Byte) &&& 0xF0 ≠ 0 ∧ lockSpace (member 4 [4, 7]).straps ≤ (64 : Byte).toNat) := by
  unfold Standing; decide +kernel

theorem witness_CancelActsByTheTargetsPhase_waits :
    let s (p : AcquirePhase) : State := cancelling (between (.acquire (acq p)))
    let live' (a : Acquire) : List Operation := [⟨8, .detach⟩, ⟨0x21, .acquire a⟩, ⟨9, .release 1 5 .outbound⟩]
    (Standing (s (.queued .stopped)) .cancel [0x22, 0x02, 17]
      ∧ (s (.queued .stopped)).ops.acquire 2 17 = some (acq (.queued .stopped))
      ∧ (acq (.queued .stopped)).attached = false
      ∧ AcquireBecomes (s (.queued .stopped)).ops.live (live' (acqHeld (.withdrawing .cancel))) (acq (.queued .stopped))
          (acqHeld (.withdrawing .cancel)))
    ∧ (Standing (s .onLine) .cancel [0x22, 0x02, 17] ∧ (s .onLine).ops.acquire 2 17 = some (acq .onLine)
      ∧ AcquireBecomes (s .onLine).ops.live (live' (acqHeld .onLine)) (acq .onLine) (acqHeld .onLine)) :=
  ⟨⟨standing_cancelling _, rfl, rfl, between_becomes _ _⟩, standing_cancelling _, rfl, between_becomes _ _⟩

theorem witness_CancelActsByTheTargetsPhase_outbound :
    let claim : ItemId := .lock .claim 2 17
    let c : Sched := { resetSched with locks := [.claim 2 17 .x true] }
    let s (c : Sched) : State := { cancelling (between (.acquire (acq .outbound))) with sched := c }
    let on : Sched := { c with onLine := .item claim }
    (Standing (s c) .cancel [0x22, 0x02, 17] ∧ (s c).ops.acquire 2 17 = some (acq .outbound)
      ∧ (acq .outbound).attached = false ∧ (acq .outbound).phase = .outbound ∧ (s c).sched.onLine ≠ .item claim
      ∧ (s c).sched.holds claim = true
      ∧ AcquireLives (s c).ops.live 0x21 (acq .outbound) none [⟨8, .detach⟩, ⟨9, .release 1 5 .outbound⟩]
      ∧ ∀ op ∈ [(⟨8, .detach⟩ : Operation), ⟨9, .release 1 5 .outbound⟩],
          op.isAcquire 2 17 = false ∧ op.isCancel 2 17 = false)
    ∧ ((s on).sched.onLine = .item claim
      ∧ AcquireBecomes (s on).ops.live
          [⟨8, .detach⟩, ⟨0x21, .acquire (acqHeld .onLine)⟩, ⟨9, .release 1 5 .outbound⟩] (acq .outbound)
          (acqHeld .onLine)) :=
  ⟨⟨standing_cancelling _, rfl, rfl, rfl, by decide, by decide, between_lives _, by decide⟩, rfl, between_becomes _ _⟩

theorem witness_QueriesShowTheReplicaAndTheStation :
    let s := member 4 [4, 7]
    (Standing (withBuffer s .queryLock [1, 64]) .queryLock [1, 64] ∧ s.join.state ≠ .unconfigured
      ∧ lockSpace s.straps ≤ (64 : Byte).toNat ∧ (63 : Byte).toNat < lockSpace s.straps)
    ∧ Standing (withBuffer s .queryLock [1, 63]) .queryLock [1, 63]
    ∧ Standing (withBuffer s .queryMembers [1]) .queryMembers [1]
    ∧ (Standing (withBuffer State.reset .queryStation [1]) .queryStation [1]
      ∧ State.reset.ops.live.length ≤ 32 ∧ State.reset.ops.holds.length ≤ 64 ∧ State.reset.replica.poolUse ≤ 128) := by
  unfold Standing; decide +kernel

theorem witness_AckClearsTheNamedReasons :
    let s := { member 4 [4, 7] with port := { resetPort with attention := 7 } }
    (Standing (withBuffer s .ack [0x0F]) .ack [0x0F] ∧ s.join.state ≠ .unconfigured ∧ (0x0F : Byte) &&& 0xF0 = 0)
    ∧ (Standing (withBuffer s .ack [0x10]) .ack [0x10] ∧ (0x10 : Byte) &&& 0xF0 ≠ 0)
    ∧ (Standing (withBuffer State.reset .ack [1]) .ack [1] ∧ State.reset.join.state = .unconfigured) := by
  unfold Standing; decide +kernel

/-! ### Witnesses: invariants and encodings -/

/-- A step from a state that meets every invariant: SETUP right after reset, the other invariants' states alike. -/
def stepping : State := { withBuffer State.reset .setup [10, 3, 0x83] with pending := [.setup] }

theorem witness_step : step stepping = .next (after .setup { stepping with pending := [] }) := rfl

theorem witness_OperationsAndHoldsStaySound :
    (withLive (withHolds (member 4 [4, 7]) [⟨17, 2, .x, 8, false⟩]) [⟨0x21, .acquire (acq .onLine)⟩]).port.replies.length
        + 1 ≤ 32
      ∧ OperationsBounded stepping ∧ HoldsSound stepping
      ∧ HoldsSound (withHolds stepping [⟨17, 2, .x, 8, false⟩, ⟨17, 3, .s, 1, true⟩]) := by
  unfold OperationsBounded HoldsSound; decide +kernel

theorem witness_ApplyQueueStaysBounded :
    ApplyQueueBounded stepping ∧ ApplyQueueBounded (withQueue vetoing (List.replicate 3 (frame 5 .alive)))
      ∧ step { vetoing with pending := [.vetoSlotEnd false false true] }
          = .next (after (.vetoSlotEnd false false true) vetoing) :=
  ⟨by unfold ApplyQueueBounded; decide +kernel, by unfold ApplyQueueBounded; decide +kernel, rfl⟩

theorem holdsItem : (⟨[], [.claim 2 17 .x true], none, .nothing, false, none⟩ : Sched).holds (.lock .claim 2 17) = true := by
  decide

theorem witness_SchedulerStaysSound : SchedulerSound stepping.sched ∧ SchedulerSound sending.sched :=
  ⟨⟨by decide, nofun, nofun, nofun, nofun⟩,
    by decide +kernel, nofun, fun _ h => (by cases h; exact holdsItem), nofun, nofun⟩

theorem witness_LockTableStaysSound :
    stepping.replica.locks.length = lockSpace stepping.straps ∧ (∀ e ∈ lock9.replica.locks, EntrySound e)
      ∧ lock9.replica.locks.length = lockSpace lock9.straps ∧ OfEveryFrame EntriesSound lock9 := by
  refine ⟨by decide +kernel, fun e h => ?_, by decide +kernel, nofun, nofun, nofun⟩
  have all : lock9.replica.locks.all (fun e => e = ⟨.free, [], []⟩
      || e = ⟨.shared, [⟨2, 1⟩, ⟨5, 0⟩], [x 4 3, sh 1 2, sh 6 0, x 3 3]⟩) = true := by decide +kernel
  have := List.all_eq_true.mp all e h
  simp only [Bool.or_eq_true, decide_eq_true_eq] at this
  obtain rfl | rfl := this
  · exact ⟨⟨rfl, rfl⟩, by decide, by decide, by decide⟩
  · exact ⟨⟨by decide, by decide⟩, by decide, by decide, by decide⟩

theorem witness_MembershipStaysSound :
    JoinListSound (loading9 true 31 1).replica.members (loading9 true 31 1).replica.joinList
      ∧ (loading9 true 31 1).replica.fabric ≠ none ∧ OfEveryFrame HeadSound (loading9 true 31 1) := by
  refine ⟨by unfold JoinListSound; decide +kernel, by decide +kernel, nofun, nofun, nofun⟩

theorem witness_InsertedBitsComeOff : 1 ≤ 5 ∧ 5 ≤ 5 := by decide

/-- Lock 63 of 64; the head of Table 2-3; the entry of Table 5-6. -/
theorem witness_FramesDecodeAsSent :
    FixedFrame 64 (frame 4 (.claim 2 63 .x true)) ∧ SoundHead head9
      ∧ SoundData 64 63 [⟨63, ⟨.shared, [⟨1, 2⟩, ⟨6, 0⟩], [x 3 3, sh 0 5]⟩⟩] := by
  refine ⟨by show 63 < 64; decide, by unfold SoundHead JoinListSound; decide +kernel, by decide, by decide,
    fun k e h => ?_, fun e h => ?_, by decide⟩
  · match k, h with
    | 0, h => cases h; rfl
    | k + 1, h => simp at h
  · cases List.mem_singleton.mp h
    exact ⟨⟨⟨by decide, by decide⟩, by decide, by decide, by decide⟩, by decide⟩

end Sys2Proof.Tests
end

