-- ==== Sys2Proof/Proofs/LockTable/Regrant.lean ====
section
/-! PROOFS. The rules of the lock table's operations (01): holder sets, the grant rule, the regrant as a relation, the
removal of a station. -/
namespace Sys2Proof.Machine
open Sys2Proof.Safety

/-! ### Holder sets (01 R2) -/

theorem Claimant.before_iff (a b : Claimant) :
    a.before b = true
      ↔ a.station.val < b.station.val ∨ (a.station.val = b.station.val ∧ a.owner.val < b.owner.val) := by
  simp [Claimant.before, Fin.ext_iff]

theorem Claimant.before_trans {a b c : Claimant} (hab : a.before b = true) (hbc : b.before c = true) :
    a.before c = true := by
  rw [Claimant.before_iff] at *
  omega

/-- Of two claimants one is before the other. -/
theorem Claimant.before_of_not_before {a b : Claimant} (hne : a ≠ b) (h : ¬ a.before b = true) :
    b.before a = true := by
  obtain ⟨s, o⟩ := a
  obtain ⟨s', o'⟩ := b
  rw [Claimant.before_iff] at *
  simp only [ne_eq, Claimant.mk.injEq, Fin.ext_iff] at *
  omega

/-- A claimant that does not hold joins the holders, and no one else does. -/
theorem insertHolder_perm {c : Claimant} : ∀ {hs : List Claimant}, c ∉ hs → (insertHolder c hs).Perm (c :: hs)
  | [], _ => .refl _
  | h :: hs, hc => by
    obtain ⟨hne, hc⟩ := List.ne_and_not_mem_of_not_mem_cons hc
    simp only [insertHolder, if_neg hne]
    split
    · exact .refl _
    · exact ((insertHolder_perm hc).cons h).trans (.swap c h hs)

theorem length_insertHolder {c : Claimant} {hs : List Claimant} (hc : c ∉ hs) :
    (insertHolder c hs).length = hs.length + 1 := (insertHolder_perm hc).length_eq

/-- The holders stay in ascending order. -/
theorem insertHolder_pairwise {c : Claimant} : ∀ {hs : List Claimant}, c ∉ hs →
    hs.Pairwise (fun a b => a.before b = true) → (insertHolder c hs).Pairwise fun a b => a.before b = true
  | [], _, _ => List.pairwise_singleton _ c
  | h :: hs, hc, hp => by
    obtain ⟨hne, hc⟩ := List.ne_and_not_mem_of_not_mem_cons hc
    obtain ⟨hh, hp'⟩ := List.pairwise_cons.1 hp
    simp only [insertHolder, if_neg hne]
    split
    · next hb =>
      refine List.pairwise_cons.2 ⟨fun a ha => ?_, hp⟩
      rcases List.mem_cons.1 ha with rfl | ha
      · exact hb
      · exact Claimant.before_trans hb (hh a ha)
    · next hb =>
      refine List.pairwise_cons.2 ⟨fun a ha => ?_, insertHolder_pairwise hc hp'⟩
      rcases List.mem_cons.1 ((insertHolder_perm hc).mem_iff.1 ha) with rfl | ha
      · exact Claimant.before_of_not_before hne hb
      · exact hh a ha

/-! ### The grant rule (01 R8, R9) -/

theorem permits_x_iff (st : EntryState) (holders : List Claimant) : permits st holders .x = true ↔ st = .free := by
  simp [permits]

theorem permits_s_iff (st : EntryState) (holders : List Claimant) :
    permits st holders .s = true ↔ st = .free ∨ (st = .shared ∧ holders.length < 8) := by
  simp [permits, Config.holderLimit]

theorem permits_free (holders : List Claimant) (m : Mode) : permits .free holders m = true := by
  cases m <;> simp [permits]

theorem permits_excl (holders : List Claimant) (m : Mode) : permits .excl holders m = false := by
  cases m <;> simp [permits]

theorem LockEntry.grantable_iff (e : LockEntry) (m : Mode) :
    e.grantable m = true ↔ e.waiters = [] ∧ permits e.state e.holders m = true := by
  simp [LockEntry.grantable]

/-! ### The regrant (01 R10) -/

/-- The regrant of 01 R10 as a relation: an entry of this state, these holders and this queue becomes `e`, and the
waiters `granted` are granted. -/
inductive Regrants : EntryState → List Claimant → List Waiter → LockEntry → List Waiter → Prop where
  | done (st : EntryState) (hs : List Claimant) : Regrants st hs [] ⟨st, hs, []⟩ []
  | stops (st : EntryState) (hs : List Claimant) (w : Waiter) (ws : List Waiter) :
      permits st hs w.mode = false → Regrants st hs (w :: ws) ⟨st, hs, w :: ws⟩ []
  | grantsX (hs : List Claimant) (w : Waiter) (ws : List Waiter) :
      w.mode = .x → Regrants .free hs (w :: ws) ⟨.excl, insertHolder w.claimant hs, ws⟩ [w]
  | grantsS (st : EntryState) (hs : List Claimant) (w : Waiter) (ws : List Waiter) (e : LockEntry)
      (granted : List Waiter) :
      w.mode = .s → st = .free ∨ (st = .shared ∧ hs.length < 8) →
      Regrants .shared (insertHolder w.claimant hs) ws e granted → Regrants st hs (w :: ws) e (w :: granted)

theorem regrantFrom_regrants : ∀ (ws : List Waiter) (st : EntryState) (hs : List Claimant),
    Regrants st hs ws (regrantFrom st hs ws).1 (regrantFrom st hs ws).2
  | [], st, hs => .done st hs
  | w :: ws, st, hs => by
    rw [regrantFrom]
    split
    · next hp =>
      cases hm : w.mode with
      | x =>
        obtain rfl := (permits_x_iff st hs).1 (hm ▸ hp)
        exact .grantsX hs w ws hm
      | s => exact .grantsS st hs w ws _ _ hm ((permits_s_iff st hs).1 (hm ▸ hp)) (regrantFrom_regrants ws _ _)
    · next hp => exact .stops st hs w ws (Bool.eq_false_iff.2 hp)

theorem LockEntry.regrant_regrants (e : LockEntry) :
    Regrants e.state e.holders e.waiters e.regrant.1 e.regrant.2 := regrantFrom_regrants _ _ _

namespace Regrants
variable {st : EntryState} {hs : List Claimant} {ws granted : List Waiter} {e : LockEntry}

/-- A front part of the queue is granted, and the rest stays in order. -/
theorem queue_eq (h : Regrants st hs ws e granted) : ws = granted ++ e.waiters := by
  induction h with
  | done | stops | grantsX => rfl
  | grantsS _ _ w _ _ _ _ _ _ ih => exact congrArg (w :: ·) ih

theorem eq_of_none_granted (h : Regrants st hs ws e []) : e = ⟨st, hs, ws⟩ := by
  cases h <;> rfl

/-- The waiter left at the head may not be granted. -/
theorem head_refused (h : Regrants st hs ws e granted) {w : Waiter} {rest : List Waiter} (hw : e.waiters = w :: rest) :
    permits e.state e.holders w.mode = false := by
  induction h with
  | done => cases hw
  | stops _ _ _ _ hp => cases hw; exact hp
  | grantsX => exact permits_excl _ _
  | grantsS _ _ _ _ _ _ _ _ _ ih => exact ih hw

/-- An X waiter is granted alone, at a FREE entry. -/
theorem of_head_x {w : Waiter} (h : Regrants st hs ws e (w :: granted)) (hm : w.mode = .x) :
    st = .free ∧ granted = [] ∧ e.state = .excl ∧ e.holders = insertHolder w.claimant hs := by
  cases h with
  | grantsX => exact ⟨rfl, rfl, rfl, rfl⟩
  | grantsS _ _ _ _ _ _ hs => exact absurd (hm.symm.trans hs) nofun

/-- The waiters granted join the holders one after another. -/
abbrev joined (hs : List Claimant) (granted : List Waiter) : List Claimant :=
  (granted.map Waiter.claimant).foldl (fun hs c => insertHolder c hs) hs

/-- At a SHARED entry S waiters alone are granted, each while fewer than 8 hold. -/
theorem of_shared (hst : st = .shared) (h : Regrants st hs ws e granted) :
    e.state = .shared ∧ e.holders = joined hs granted ∧ (∀ v ∈ granted, v.mode = .s)
      ∧ ∀ before v after, granted = before ++ v :: after → (joined hs before).length < 8 := by
  induction h with
  | done | stops => exact ⟨hst, rfl, nofun, by simp⟩
  | grantsX => cases hst
  | grantsS st hs w ws e granted hm hp _ ih =>
    obtain ⟨hstate, hholders, hmodes, hroom⟩ := ih rfl
    refine ⟨hstate, hholders, List.forall_mem_cons.2 ⟨hm, hmodes⟩, fun before v after hsplit => ?_⟩
    cases before with
    | nil => exact (hp.resolve_left (by simp [hst])).2
    | cons b before =>
      obtain ⟨rfl, rfl⟩ := List.cons.inj hsplit
      exact hroom before v after rfl

/-- Where an S waiter is granted first, S waiters alone are granted and the entry is SHARED. -/
theorem of_head_s {w : Waiter} (h : Regrants st hs ws e (w :: granted)) (hm : w.mode = .s) :
    (st = .free ∨ st = .shared) ∧ e.state = .shared ∧ e.holders = joined hs (w :: granted)
      ∧ (∀ v ∈ w :: granted, v.mode = .s)
      ∧ ∀ before v after, w :: granted = before ++ v :: after → before ≠ [] ∨ st = .shared →
          (joined hs before).length < 8 := by
  cases h with
  | grantsX _ _ _ hx => exact absurd (hm.symm.trans hx) nofun
  | grantsS _ _ _ _ _ _ _ hp hrest =>
    obtain ⟨hstate, hholders, hmodes, hroom⟩ := hrest.of_shared rfl
    refine ⟨hp.imp_right And.left, hstate, hholders, List.forall_mem_cons.2 ⟨hm, hmodes⟩, ?_⟩
    rintro (_ | ⟨b, before⟩) v after hsplit hor
    · obtain rfl := hor.resolve_left (· rfl)
      exact (hp.resolve_left nofun).2
    · obtain ⟨rfl, rfl⟩ := List.cons.inj hsplit
      exact hroom before v after rfl

end Regrants

/-! ### Holders and waiters that leave (01 R19, R20, R22) -/

theorem LockEntry.dropHolders_eq (e : LockEntry) (gone : Claimant → Bool) :
    e.dropHolders gone =
      { e with
        state := if (e.holders.filter fun h => !gone h) = [] then .free else e.state
        holders := e.holders.filter fun h => !gone h } := by
  simp [LockEntry.dropHolders, List.isEmpty_iff]

/-- An entry that the waiters and the holders of station s have left, before its regrant (01 R22). -/
def LockEntry.without (e : LockEntry) (s : Station) : LockEntry :=
  { state := if (e.holders.filter fun h => h.station ≠ s) = [] then .free else e.state
    holders := e.holders.filter fun h => h.station ≠ s
    waiters := e.waiters.filter fun w => w.claimant.station ≠ s }

theorem LockEntry.removeStation_unknown {e : LockEntry} (s : Station) (h : e.state = .unknown) :
    e.removeStation s = (e, []) := if_pos h

theorem LockEntry.removeStation_known {e : LockEntry} (s : Station) (h : e.state ≠ .unknown) :
    e.removeStation s = (e.without s).regrant := by
  rw [LockEntry.removeStation, if_neg h, LockEntry.dropHolders_eq]
  simp [LockEntry.without]

/-! ### The removal of a station from the table (01 R21, R22) -/

theorem removeStationFrom_locks (s : Station) : ∀ (n : Nat) (es : List LockEntry),
    (removeStationFrom s n es).1 = es.map fun e => (e.removeStation s).1
  | _, [] => rfl
  | n, e :: es => congrArg ((e.removeStation s).1 :: ·) (removeStationFrom_locks s (n + 1) es)

theorem removeStationFrom_grants (s : Station) : ∀ (n : Nat) (es : List LockEntry),
    (removeStationFrom s n es).2 = removalGrants s n es
  | _, [] => rfl
  | n, e :: es => by
    rw [removeStationFrom, removalGrants, removeStationFrom_grants s (n + 1) es]
    by_cases h : e.state = .unknown
    · simp [LockEntry.removeStation_unknown s h, h]
    · rw [LockEntry.removeStation_known s h, if_neg h]
      rfl

/-- What the regrant at a known entry grants is among the grants of the removal. -/
theorem mem_removalGrants (s : Station) {e : LockEntry} {w : Waiter} (he : e.state ≠ .unknown)
    (hw : w ∈ (e.without s).regrant.2) : ∀ (n k : Nat) (es : List LockEntry), es[k]? = some e →
      (⟨BitVec.ofNat 8 (n + k), w⟩ : Grant) ∈ removalGrants s n es
  | n, 0, e' :: es, hk => by
    obtain rfl : e' = e := by simpa using hk
    rw [removalGrants, if_neg he]
    exact List.mem_append_left _ (List.mem_map.2 ⟨w, hw, rfl⟩)
  | n, k + 1, e' :: es, hk => by
    have hrest := mem_removalGrants s he hw (n + 1) k es (by simpa using hk)
    rw [removalGrants, Nat.add_right_comm] at *
    exact List.mem_append_right _ hrest

theorem Replica.removeStation_locks (r : Replica) (s : Station) :
    (r.removeStation s).1.locks = r.locks.map fun e => (e.removeStation s).1 := removeStationFrom_locks s 0 r.locks

end Sys2Proof.Machine

namespace Sys2Proof.LockTable
open Sys2Proof.Machine Sys2Proof.Safety

/-- Settles O20: the regrant is followed as a relation, one waiter after another. -/
theorem regrantGrantsFromTheHead : Obligations.RegrantGrantsFromTheHead := by
  refine ⟨fun st holders => ⟨permits_x_iff st holders, permits_s_iff st holders,
    fun ws m => LockEntry.grantable_iff ⟨st, holders, ws⟩ m⟩, fun e => ?_⟩
  have h := e.regrant_regrants
  refine ⟨h.queue_eq, fun hnone => ?_, fun w rest hcons hm => ?_, fun w rest hcons hm => ?_,
    fun w rest hw => h.head_refused hw⟩
  · exact (hnone ▸ h).eq_of_none_granted
  · exact (hcons ▸ h).of_head_x hm
  · have hs := (hcons ▸ h).of_head_s hm
    simpa only [hcons] using hs

/-- Settles O24, by induction on the locks of the table. -/
theorem removalOfAStationAtEveryLock : Obligations.RemovalOfAStationAtEveryLock := by
  intro r s
  have hlocks := r.removeStation_locks s
  have hgrants : (r.removeStation s).2 = removalGrants s 0 r.locks := removeStationFrom_grants s 0 r.locks
  refine ⟨by simp [hlocks], rfl, rfl, rfl, fun n e he => ⟨fun hu => ?_, fun hk => ⟨?_, fun w hw => ?_⟩⟩, hgrants⟩
  · simp [hlocks, he, LockEntry.removeStation_unknown s hu]
  · rw [hlocks, List.getElem?_map, he, Option.map_some, LockEntry.removeStation_known s hk]
    rfl
  · rw [hgrants]
    simpa using mem_removalGrants s hk hw 0 n r.locks he

end Sys2Proof.LockTable
end

