-- ==== Sys2Proof/Proofs/LockTable/LockFrames.lean ====
section
/-! PROOFS. Lock frames at a replica (01 R13 to R20): each way a CLAIM, a FREE and a WITHDRAW can end, and their
applications. -/
namespace Sys2Proof.Machine
open Sys2Proof.Safety

theorem LockEntry.names_iff (e : LockEntry) (c : Claimant) :
    e.names c = true ↔ c ∈ e.holders ∨ c ∈ e.waiters.map Waiter.claimant := by
  simp [LockEntry.names]

/-! ### The rewind (01 R18) -/

theorem RecordState.loadedPast_iff (k : Nat) (st : RecordState) :
    st.loadedPast k = true ↔ ∃ c, st = .joining true c ∧ k < c := by
  cases st with
  | joining headSent c => cases headSent <;> simp [RecordState.loadedPast]
  | absent | refuseDue | member => simp [RecordState.loadedPast]

theorem RecordState.rewound_loading (k c : Nat) : (RecordState.joining true c).rewound k = .joining true (min c k) := by
  simp only [RecordState.rewound, RecordState.joining.injEq, true_and]
  split <;> omega

theorem RecordState.rewound_other {k : Nat} {st : RecordState} (h : ∀ c, st ≠ .joining true c) : st.rewound k = st := by
  cases st with
  | joining headSent c =>
    cases headSent
    · rfl
    · exact absurd rfl (h c)
  | absent | refuseDue | member => rfl

namespace Replica
variable {r : Replica} {self : Station} {c : Claimant} {l : Byte} {m : Mode} {w : Bool}

theorem rewind_joinList (self : Station) (k : Nat) (r : Replica) : (r.rewind self k).joinList = r.joinList := by
  unfold Replica.rewind
  split <;> rfl

theorem rewind_fabric (self : Station) (k : Nat) (r : Replica) : (r.rewind self k).fabric = r.fabric := by
  unfold Replica.rewind
  split <;> rfl

theorem rewind_members (self : Station) (k : Nat) (r : Replica) (v : Station) :
    (r.rewind self k).members[v] = { r.members[v] with state := r.members[v].state.rewound k } := by
  unfold Replica.rewind
  split <;> simp [Replica.forgetFrom]

/-- At the loading joiner whose cursor was above, the entries from the lock upward become UNKNOWN. -/
theorem rewind_locks_past {k : Nat} (h : r.members[self].state.loadedPast k = true) :
    (r.rewind self k).locks = r.locks.take k ++ (r.locks.drop k).map fun _ => unknownEntry := by
  rw [Replica.rewind, if_pos h]
  rfl

theorem rewind_locks_kept {k : Nat} (h : r.members[self].state.loadedPast k = false) :
    (r.rewind self k).locks = r.locks := by
  rw [Replica.rewind, if_neg (Bool.eq_false_iff.1 h)]

theorem rewind_locks_past_below {k n : Nat} (h : r.members[self].state.loadedPast k = true) (hn : n < k) :
    (r.rewind self k).locks[n]? = r.locks[n]? := by
  rw [rewind_locks_past h]
  by_cases hl : n < r.locks.length
  · rw [List.getElem?_append_left (by simp; omega), List.getElem?_take_of_lt hn]
  · have hlen : r.locks.length ≤ n := Nat.le_of_not_lt hl
    rw [List.getElem?_eq_none (by simp; omega), List.getElem?_eq_none hlen]

theorem rewind_locks_past_above {k n : Nat} (h : r.members[self].state.loadedPast k = true) (hk : k ≤ n)
    (hn : n < r.locks.length) : (r.rewind self k).locks[n]? = some unknownEntry := by
  have hlen : (r.locks.take k).length = k := by simp; omega
  rw [rewind_locks_past h, List.getElem?_append_right (by omega), hlen, List.getElem?_map, List.getElem?_drop,
    Nat.add_sub_cancel' hk, List.getElem?_eq_getElem hn]
  rfl

theorem length_rewind_locks (self : Station) (k : Nat) (r : Replica) :
    (r.rewind self k).locks.length = r.locks.length := by
  cases h : r.members[self].state.loadedPast k
  · rw [rewind_locks_kept h]
  · rw [rewind_locks_past h]
    simp
    omega

theorem entry_eq_of_locks {r r' : Replica} (h : r.locks = r'.locks) (l : Byte) : r.entry l = r'.entry l := by
  rw [Replica.entry, h, Replica.entry]

theorem entry_rewind_past (h : r.members[self].state.loadedPast l.toNat = true) :
    (r.rewind self l.toNat).entry l = unknownEntry := by
  rw [Replica.entry, List.getD_eq_getElem?_getD]
  by_cases hl : l.toNat < r.locks.length
  · rw [rewind_locks_past_above h le_rfl hl]
    rfl
  · rw [List.getElem?_eq_none (by rw [length_rewind_locks]; omega)]
    rfl

/-! ### CLAIM (01 R15 to R18) -/

theorem claim_skipped (h : (r.entry l).state = .unknown ∨ r.members[c.station].state ≠ .member) :
    r.claim self c l m w = (r, none) := if_pos h

/-- What a CLAIM comes to once it is not skipped. -/
theorem claim_considered (hk : (r.entry l).state ≠ .unknown) (hm : r.members[c.station].state = .member) :
    r.claim self c l m w =
      if (r.entry l).names c then (r, some .duplicate)
      else if (r.entry l).grantable m then (r.setEntry l ((r.entry l).grant c m), some .granted)
      else if !w then (r, some .busy)
      else if Config.queueLimit ≤ (r.entry l).waiters.length then (r, some .queueFull)
      else if ((r.rewind self l.toNat).entry l).state = .unknown then (r.rewind self l.toNat, none)
      else (((r.rewind self l.toNat).poolTest c l m).1, some ((r.rewind self l.toNat).poolTest c l m).2) :=
  if_neg (not_or.2 ⟨hk, not_not.2 hm⟩)

section
variable (hk : (r.entry l).state ≠ .unknown) (hm : r.members[c.station].state = .member)
include hk hm

theorem claim_duplicate (hn : (r.entry l).names c = true) : r.claim self c l m w = (r, some .duplicate) := by
  rw [claim_considered hk hm, if_pos hn]

theorem claim_granted (hn : (r.entry l).names c = false) (hg : (r.entry l).grantable m = true) :
    r.claim self c l m w = (r.setEntry l ((r.entry l).grant c m), some .granted) := by
  rw [claim_considered hk hm, hn, if_neg nofun, if_pos hg]

theorem claim_busy (hn : (r.entry l).names c = false) (hg : (r.entry l).grantable m = false) :
    r.claim self c l m false = (r, some .busy) := by
  rw [claim_considered hk hm, hn, hg]
  rfl

theorem claim_queueFull (hn : (r.entry l).names c = false) (hg : (r.entry l).grantable m = false)
    (hq : 16 ≤ (r.entry l).waiters.length) : r.claim self c l m true = (r, some .queueFull) := by
  rw [claim_considered hk hm, hn, hg]
  exact if_pos hq

/-- At the loading joiner whose cursor was above the lock, the claim is skipped after the rewind. -/
theorem claim_rewound (hn : (r.entry l).names c = false) (hg : (r.entry l).grantable m = false)
    (hq : (r.entry l).waiters.length < 16) (hp : r.members[self].state.loadedPast l.toNat = true) :
    r.claim self c l m true = (r.rewind self l.toNat, none) := by
  rw [claim_considered hk hm, hn, hg]
  refine (if_neg (Nat.not_le.2 hq)).trans (if_pos ?_)
  rw [entry_rewind_past hp]
  rfl

/-- Elsewhere the pool and the quota decide, after the rewind. -/
theorem claim_poolTest (hn : (r.entry l).names c = false) (hg : (r.entry l).grantable m = false)
    (hq : (r.entry l).waiters.length < 16) (hp : r.members[self].state.loadedPast l.toNat = false) :
    r.claim self c l m true =
      (((r.rewind self l.toNat).poolTest c l m).1, some ((r.rewind self l.toNat).poolTest c l m).2) := by
  rw [claim_considered hk hm, hn, hg]
  refine (if_neg (Nat.not_le.2 hq)).trans (if_neg ?_)
  rwa [entry_eq_of_locks (rewind_locks_kept hp)]

end

/-! ### The pool test (01 R17) -/

theorem poolTest_poolFull (h : 128 ≤ r.poolUse) : r.poolTest c l m = (r, .poolFull) := if_pos h

theorem poolTest_quota (h : r.poolUse < 128) (hs : 16 ≤ r.stationUse c.station) : r.poolTest c l m = (r, .quota) :=
  (if_neg (Nat.not_le.2 h)).trans (if_pos hs)

theorem poolTest_queued (h : r.poolUse < 128) (hs : r.stationUse c.station < 16) :
    r.poolTest c l m =
      (r.setEntry l { r.entry l with waiters := (r.entry l).waiters ++ [⟨c, m⟩] }, .queued) :=
  (if_neg (Nat.not_le.2 h)).trans (if_neg (Nat.not_le.2 hs))

/-! ### FREE (01 R19) and WITHDRAW (01 R20) -/

theorem free_skipped (h : (r.entry l).state = .unknown) : r.free c l = (r, none, []) := if_pos h

theorem free_holder (hk : (r.entry l).state ≠ .unknown) (hc : c ∈ (r.entry l).holders) :
    r.free c l =
      let hs := (r.entry l).holders.filter fun h => h ≠ c
      let g := ({ r.entry l with state := if hs = [] then .free else (r.entry l).state, holders := hs } :
        LockEntry).regrant
      (r.setEntry l g.1, some .released, g.2.map (Grant.mk l)) := by
  rw [Replica.free, if_neg hk, if_pos (by simpa using hc), LockEntry.dropHolders_eq]
  simp

theorem free_notHolder (hk : (r.entry l).state ≠ .unknown) (hc : c ∉ (r.entry l).holders) :
    r.free c l = (r, some .notHolder, []) :=
  (if_neg hk).trans (if_neg (by simpa using hc))

theorem withdraw_skipped (h : (r.entry l).state = .unknown) : r.withdraw c l = (r, none, []) := if_pos h

/-- What a WITHDRAW comes to at a known entry. -/
theorem withdraw_considered (hk : (r.entry l).state ≠ .unknown) :
    r.withdraw c l =
      if c ∈ (r.entry l).waiters.map Waiter.claimant then
        let g := ({ r.entry l with waiters := (r.entry l).waiters.filter fun w => w.claimant ≠ c } : LockEntry).regrant
        (r.setEntry l g.1, some .withdrawn, g.2.map (Grant.mk l))
      else if c ∈ (r.entry l).holders then (r, some .isHolder, [])
      else (r, some .notWaiting, []) := by
  rw [Replica.withdraw, if_neg hk]
  simp

theorem withdraw_waiter (hk : (r.entry l).state ≠ .unknown) (hw : c ∈ (r.entry l).waiters.map Waiter.claimant) :
    r.withdraw c l =
      let g := ({ r.entry l with waiters := (r.entry l).waiters.filter fun w => w.claimant ≠ c } : LockEntry).regrant
      (r.setEntry l g.1, some .withdrawn, g.2.map (Grant.mk l)) :=
  (withdraw_considered hk).trans (if_pos hw)

theorem withdraw_holder (hk : (r.entry l).state ≠ .unknown) (hw : c ∉ (r.entry l).waiters.map Waiter.claimant)
    (hc : c ∈ (r.entry l).holders) : r.withdraw c l = (r, some .isHolder, []) :=
  (withdraw_considered hk).trans ((if_neg hw).trans (if_pos hc))

theorem withdraw_notWaiting (hk : (r.entry l).state ≠ .unknown) (hw : c ∉ (r.entry l).waiters.map Waiter.claimant)
    (hc : c ∉ (r.entry l).holders) : r.withdraw c l = (r, some .notWaiting, []) :=
  (withdraw_considered hk).trans ((if_neg hw).trans (if_neg hc))

end Replica

/-! ### Applications of lock frames (01 R14) -/

theorem grantNotices_at_lock (s : State) (l : Byte) (ws : List Waiter) :
    grantNotices s.straps.station (ws.map (Grant.mk l)) = ownGrants s l ws := by
  simp [grantNotices, ownGrants, List.filter_map, Function.comp_def]

section
variable {s : State} {f : Frame} {rest : List Frame} {o : Owner} {l : Byte} {r : Replica}
  (h : Takes s f rest) (hf : s.replica.fabric ≠ none) (hs : s.replica.members[f.sender].state ≠ .absent)
include h hf hs

/-- The application of a CLAIM leaves the replica of the CLAIM and hands its outcome to the sender. -/
theorem applyClaim_applied {m : Mode} {w : Bool} {x : Option ClaimOutcome} (hb : f.body = .claim o l m w)
    (hq : s.replica.claim s.straps.station ⟨f.sender, o⟩ l m w = (r, x)) :
    ∃ t, exec .applyClaim s = .next t
      ∧ AppliedAs s t f rest r none (ownOutcome s.straps.station f.sender (x.map (OpsHandOver.claim o l))) [] := by
  have heffect := popped_screened_passed rest [] (fun r =>
    let q := r.claim s.straps.station ⟨f.sender, o⟩ l m w
    ⟨q.1, none, q.2.map (OpsHandOver.claim o l), [], []⟩) hf hs
  rw [hq] at heffect
  exact State.applyHead_applies (a := ⟨r, none, x.map (OpsHandOver.claim o l), [], []⟩) h (by rw [hb]; rfl)
    (by simp only [hb]; exact heffect) (List.append_nil _)

/-- The application of a FREE hands its outcome to the sender and the grants to their claimants. -/
theorem applyFree_applied {x : Option FreeOutcome} {gs : List Grant} (hb : f.body = .free o l)
    (hq : s.replica.free ⟨f.sender, o⟩ l = (r, x, gs)) :
    ∃ t, exec .applyFree s = .next t
      ∧ AppliedAs s t f rest r none
          (ownOutcome s.straps.station f.sender (x.map (OpsHandOver.free o l)) ++ grantNotices s.straps.station gs)
          [] := by
  have heffect := popped_screened_passed rest [] (fun r =>
    let q := r.free ⟨f.sender, o⟩ l
    ⟨q.1, none, q.2.1.map (OpsHandOver.free o l), q.2.2, []⟩) hf hs
  rw [hq] at heffect
  exact State.applyHead_applies (a := ⟨r, none, x.map (OpsHandOver.free o l), gs, []⟩) h (by rw [hb]; rfl)
    (by simp only [hb]; exact heffect) rfl

/-- The application of a WITHDRAW hands its outcome to the sender and the grants to their claimants. -/
theorem applyWithdraw_applied {x : Option WithdrawOutcome} {gs : List Grant} (hb : f.body = .withdraw o l)
    (hq : s.replica.withdraw ⟨f.sender, o⟩ l = (r, x, gs)) :
    ∃ t, exec .applyWithdraw s = .next t
      ∧ AppliedAs s t f rest r none
          (ownOutcome s.straps.station f.sender (x.map (OpsHandOver.withdraw o l)) ++ grantNotices s.straps.station gs)
          [] := by
  have heffect := popped_screened_passed rest [] (fun r =>
    let q := r.withdraw ⟨f.sender, o⟩ l
    ⟨q.1, none, q.2.1.map (OpsHandOver.withdraw o l), q.2.2, []⟩) hf hs
  rw [hq] at heffect
  exact State.applyHead_applies (a := ⟨r, none, x.map (OpsHandOver.withdraw o l), gs, []⟩) h (by rw [hb]; rfl)
    (by simp only [hb]; exact heffect) rfl

end

theorem ownOutcome_none (self sender : Station) : ownOutcome self sender none = [] := ite_self _

end Sys2Proof.Machine

namespace Sys2Proof.LockTable
open Sys2Proof.Machine Sys2Proof.Safety

/-- Settles O21: one rule of Replica.claim for each outcome. -/
theorem applyClaimDecidedByTheEntry : Obligations.ApplyClaimDecidedByTheEntry := by
  constructor
  · intro s f rest o l htakes hf hs hskip m w hb
    simpa only [Option.map_none, ownOutcome_none] using
      applyClaim_applied htakes hf hs hb (Replica.claim_skipped hskip)
  · intro s f rest o l m w htakes hb hf hmem hk e c result
    have hs : s.replica.members[f.sender].state ≠ .absent := by rw [hmem]; nofun
    have hresult {r : Replica} {x : ClaimOutcome}
        (hq : s.replica.claim s.straps.station c l m w = (r, some x)) : result r x :=
      applyClaim_applied htakes hf hs hb hq
    refine ⟨fun hdup => hresult (Replica.claim_duplicate hk hmem ((e.names_iff c).2 hdup)), fun hh hw => ?_⟩
    have hn : e.names c = false := Bool.eq_false_iff.2 fun hn => ((e.names_iff c).1 hn).elim hh hw
    refine ⟨?_, ?_, ?_, ?_⟩
    · rintro rfl hempty hfree
      exact hresult (Replica.claim_granted hk hmem hn ((e.grantable_iff .x).2 ⟨hempty, (permits_x_iff _ _).2 hfree⟩))
    · rintro rfl hempty hroom
      exact hresult (Replica.claim_granted hk hmem hn ((e.grantable_iff .s).2 ⟨hempty, (permits_s_iff _ _).2 hroom⟩))
    · rintro hg rfl
      exact hresult (Replica.claim_busy hk hmem hn hg)
    · rintro hg rfl hfull
      exact hresult (Replica.claim_queueFull hk hmem hn hg hfull)

/-- Settles O22: the replica after the rewind, and the pool test on it. -/
theorem applyClaimAtThePoolTest : Obligations.ApplyClaimAtThePoolTest := by
  intro s f rest o l m htakes hb hf hmem hk hh hw hg hroom
  have hs : s.replica.members[f.sender].state ≠ .absent := by rw [hmem]; nofun
  have hn : (s.replica.entry l).names ⟨f.sender, o⟩ = false :=
    Bool.eq_false_iff.2 fun hn => ((LockEntry.names_iff _ _).1 hn).elim hh hw
  refine ⟨s.replica.rewind s.straps.station l.toNat, Replica.rewind_joinList _ _ _, Replica.rewind_fabric _ _ _,
    fun v => ?_, fun hpast => ?_, fun hpast => ?_⟩
  · rw [Replica.rewind_members]
    exact ⟨rfl, fun c hc => by simp only [hc, RecordState.rewound_loading], RecordState.rewound_other⟩
  · have hp := (RecordState.loadedPast_iff _ _).2 hpast
    refine ⟨Replica.length_rewind_locks _ _ _, fun n => Replica.rewind_locks_past_below hp,
      fun n => Replica.rewind_locks_past_above hp, ?_⟩
    simpa only [Option.map_none, ownOutcome_none] using
      applyClaim_applied htakes hf hs hb (Replica.claim_rewound hk hmem hn hg hroom hp)
  · have hp := Bool.eq_false_iff.2 fun h => hpast ((RecordState.loadedPast_iff _ _).1 h)
    have hlocks := Replica.rewind_locks_kept hp
    have huse : (s.replica.rewind s.straps.station l.toNat).poolUse = s.replica.poolUse := by
      rw [Replica.poolUse, hlocks, Replica.poolUse]
    have hstation :
        (s.replica.rewind s.straps.station l.toNat).stationUse f.sender = s.replica.stationUse f.sender := by
      rw [Replica.stationUse, hlocks, Replica.stationUse]
    obtain ⟨t, ht, happ⟩ := applyClaim_applied htakes hf hs hb (Replica.claim_poolTest hk hmem hn hg hroom hp)
    refine ⟨hlocks, t, ht, fun hfull => ?_, fun hpool hquota => ?_, fun hpool hquota => ?_⟩
    · rwa [Replica.poolTest_poolFull (huse ▸ hfull)] at happ
    · rwa [Replica.poolTest_quota (huse ▸ hpool) (hstation ▸ hquota)] at happ
    · rwa [Replica.poolTest_queued (huse ▸ hpool) (hstation ▸ hquota), Replica.entry_eq_of_locks hlocks] at happ

/-- Settles O23: one rule of Replica.free and of Replica.withdraw for each outcome. -/
theorem applyFreeAndWithdrawRegrant : Obligations.ApplyFreeAndWithdrawRegrant := by
  refine ⟨?_, ?_, ?_⟩
  · intro s f rest o l htakes hb hf hs hk e c hs' g
    by_cases hc : c ∈ e.holders
    · obtain ⟨t, ht, happ⟩ := applyFree_applied htakes hf hs hb (Replica.free_holder hk hc)
      rw [grantNotices_at_lock] at happ
      exact ⟨t, ht, fun _ => happ, fun hn => absurd hc hn⟩
    · obtain ⟨t, ht, happ⟩ := applyFree_applied htakes hf hs hb (Replica.free_notHolder hk hc)
      exact ⟨t, ht, fun hy => absurd hy hc, fun _ => List.append_nil (atSender s f _) ▸ happ⟩
  · intro s f rest o l htakes hb hf hs hk e c g
    by_cases hw : c ∈ e.waiters.map Waiter.claimant
    · obtain ⟨t, ht, happ⟩ := applyWithdraw_applied htakes hf hs hb (Replica.withdraw_waiter hk hw)
      rw [grantNotices_at_lock] at happ
      exact ⟨t, ht, fun _ => happ, fun hn => absurd hw hn, fun hn => absurd hw hn⟩
    by_cases hc : c ∈ e.holders
    · obtain ⟨t, ht, happ⟩ := applyWithdraw_applied htakes hf hs hb (Replica.withdraw_holder hk hw hc)
      exact ⟨t, ht, fun hy => absurd hy hw, fun _ _ => List.append_nil (atSender s f _) ▸ happ,
        fun _ hn => absurd hc hn⟩
    · obtain ⟨t, ht, happ⟩ := applyWithdraw_applied htakes hf hs hb (Replica.withdraw_notWaiting hk hw hc)
      exact ⟨t, ht, fun hy => absurd hy hw, fun _ hy => absurd hy hc,
        fun _ _ => List.append_nil (atSender s f _) ▸ happ⟩
  · intro s f rest o l htakes hf hs hk hbody
    rcases hbody with hb | hb
    · obtain ⟨t, ht, happ⟩ := applyFree_applied htakes hf hs hb (Replica.free_skipped hk)
      rw [Option.map_none, ownOutcome_none] at happ
      exact ⟨t, hb ▸ ht, happ⟩
    · obtain ⟨t, ht, happ⟩ := applyWithdraw_applied htakes hf hs hb (Replica.withdraw_skipped hk)
      rw [Option.map_none, ownOutcome_none] at happ
      exact ⟨t, hb ▸ ht, happ⟩

end Sys2Proof.LockTable
end

