-- ==== Sys2Proof/Proofs/LockTable/Kept.lean ====
section
/-! PROOFS. The replica and the frames that a station keeps: what the invariants of the lock table and of the member
table read. Every operation of the other blocks leaves them alone. -/
namespace Sys2Proof.Machine
open Sys2Proof.Safety

/-- The straps, the replica, and the frames kept: in the apply queue, on the line, received. -/
structure Kept where
  straps : Straps
  replica : Replica
  queue : List Frame
  sent : Option Frame
  copy : Option Frame

def State.kept (s : State) : Kept := ⟨s.straps, s.replica, s.intake.queue, s.pli.sent, s.pli.copy⟩

namespace State
variable (s : State)

/-! ### The named updates of State -/

@[simp] theorem kept_withResetHeld (x : Bool) : (s.withResetHeld x).kept = s.kept := rfl
@[simp] theorem kept_withEdgeTaken (x : Bool) : (s.withEdgeTaken x).kept = s.kept := rfl
@[simp] theorem kept_withSettings (x : Option Settings) : (s.withSettings x).kept = s.kept := rfl
@[simp] theorem kept_withSched (x : Sched) : (s.withSched x).kept = s.kept := rfl
@[simp] theorem kept_withOps (x : OpsUnit) : (s.withOps x).kept = s.kept := rfl
@[simp] theorem kept_withMonitor (x : Monitor) : (s.withMonitor x).kept = s.kept := rfl
@[simp] theorem kept_withJoin (x : JoinControl) : (s.withJoin x).kept = s.kept := rfl
@[simp] theorem kept_withPort (x : HostPort) : (s.withPort x).kept = s.kept := rfl
@[simp] theorem kept_withHand (x : HandOvers) : (s.withHand x).kept = s.kept := rfl
@[simp] theorem kept_withFreeReads (x : Nat) : (s.withFreeReads x).kept = s.kept := rfl
@[simp] theorem kept_withPending (x : List Instr) : (s.withPending x).kept = s.kept := rfl

theorem kept_withReplica (x : Replica) : (s.withReplica x).kept = { s.kept with replica := x } := rfl

theorem kept_withIntake (x : Intake) : (s.withIntake x).kept = { s.kept with queue := x.queue } := rfl

theorem kept_withPli (x : Pli) : (s.withPli x).kept = { s.kept with sent := x.sent, copy := x.copy } := rfl

/-- The intake's other fields are not kept. -/
@[simp] theorem kept_withIntake_of_queue {x : Intake} (h : x.queue = s.intake.queue) :
    (s.withIntake x).kept = s.kept := by
  rw [kept_withIntake, h]
  rfl

/-- The line's other fields are not kept. -/
theorem kept_withPli_of_frames {x : Pli} (hs : x.sent = s.pli.sent) (hc : x.copy = s.pli.copy) :
    (s.withPli x).kept = s.kept := by
  rw [kept_withPli, hs, hc]
  rfl

@[simp] theorem kept_ite (c : Prop) [Decidable c] (a b : State) :
    (if c then a else b).kept = if c then a.kept else b.kept := apply_ite kept c a b

/-- A command of the line that leaves the frames on it alone. -/
theorem kept_ite_withPli (c : Prop) [Decidable c] {x : Pli} (hs : x.sent = s.pli.sent) (hc : x.copy = s.pli.copy) :
    (if c then s.withPli x else s).kept = s.kept := by
  rw [kept_ite, kept_withPli_of_frames s hs hc, ite_self]

/-! ### Shared operations -/

@[simp] theorem kept_attend (a : BitVec 4) : (s.attend a).kept = s.kept := rfl

@[simp] theorem kept_enter (st : StationState) : (s.enter st).kept = s.kept := by
  unfold enter
  split <;> rfl

@[simp] theorem kept_setLone (b : Bool) : (s.setLone b).kept = s.kept := by
  unfold setLone
  split <;> rfl

@[simp] theorem kept_queueControl (i : ControlItem) : (s.queueControl i).kept = s.kept := rfl
@[simp] theorem kept_queueLock (i : LockItem) : (s.queueLock i).kept = s.kept := rfl
@[simp] theorem kept_askRemoval (id : ItemId) : (s.askRemoval id).kept = s.kept := rfl

@[simp] theorem kept_settleAlive : s.settleAlive.kept = s.kept := by
  unfold settleAlive
  split <;> rfl

@[simp] theorem kept_hostError (e : HostError) : (s.hostError e).kept = s.kept := rfl
@[simp] theorem kept_reply (r : Reply) : (s.reply r).kept = s.kept := rfl

/-! ### Host Port -/

@[simp] theorem kept_setBuffer (b : RequestBuffer) : (s.setBuffer b).kept = s.kept := rfl

@[simp] theorem kept_kindByte (b : Byte) : (s.kindByte b).kept = s.kept := by
  unfold kindByte
  split <;> rfl

@[simp] theorem kept_argumentByte (b : Byte) : (s.argumentByte b).kept = s.kept := by
  unfold argumentByte
  split <;> rfl

@[simp] theorem kept_replyByte : s.replyByte.kept = s.kept := by
  unfold replyByte
  split <;> rfl

@[simp] theorem kept_undefinedRead : s.undefinedRead.kept = s.kept := rfl

/-! ### Operations Unit -/

@[simp] theorem kept_complete (fits : Operation → Bool) (code : ResultCode) : (s.complete fits code).kept = s.kept := by
  unfold complete
  split <;> rfl

@[simp] theorem kept_completeAcquire (o : Owner) (l : Byte) (code cancelCode : ResultCode) :
    (s.completeAcquire o l code cancelCode).kept = s.kept := by
  unfold completeAcquire
  split
  · rfl
  · split <;> simp

@[simp] theorem kept_setPhase (o : Owner) (l : Byte) (p : AcquirePhase) : (s.setPhase o l p).kept = s.kept := rfl
@[simp] theorem kept_movePhase (o : Owner) (l : Byte) (a b : AcquirePhase) : (s.movePhase o l a b).kept = s.kept := rfl
@[simp] theorem kept_addHold (o : Owner) (l : Byte) (m : Mode) : (s.addHold o l m).kept = s.kept := rfl
@[simp] theorem kept_popNotice : s.popNotice.kept = s.kept := rfl
@[simp] theorem kept_popOps : s.popOps.kept = s.kept := rfl

@[simp] theorem kept_noticeOnLine (n : Notice) : (s.noticeOnLine n).kept = s.kept := by
  unfold noticeOnLine
  split <;> rfl

@[simp] theorem kept_noticeAccepted (n : Notice) : (s.noticeAccepted n).kept = s.kept := by
  unfold noticeAccepted
  split <;> rfl

@[simp] theorem kept_cancelOutbound (o : Owner) (l : Byte) : (s.cancelOutbound o l).kept = s.kept := by
  simp only [cancelOutbound]
  split <;> simp

@[simp] theorem kept_claimVetoed (o : Owner) (l : Byte) (removed : Bool) :
    (s.claimVetoed o l removed).kept = s.kept := by
  unfold claimVetoed
  split
  · simp
  · split
    · split <;> simp
    · simp

@[simp] theorem kept_noticeVetoed (n : Notice) (removed : Bool) : (s.noticeVetoed n removed).kept = s.kept := by
  unfold noticeVetoed
  split <;> simp

@[simp] theorem kept_beginWithdraw (o : Owner) (l : Byte) (c : WithdrawCause) :
    (s.beginWithdraw o l c).kept = s.kept := rfl

@[simp] theorem kept_claimOutcome (o : Owner) (l : Byte) (out : ClaimOutcome) :
    (s.claimOutcome o l out).kept = s.kept := by
  unfold claimOutcome
  split
  · rfl
  · split
    · rfl
    · split
      · split <;> simp
      · split <;> simp

@[simp] theorem kept_freeOutcome (o : Owner) (l : Byte) (out : FreeOutcome) :
    (s.freeOutcome o l out).kept = s.kept := by
  simp [freeOutcome]

@[simp] theorem kept_withdrawOutcome (o : Owner) (l : Byte) (out : WithdrawOutcome) :
    (s.withdrawOutcome o l out).kept = s.kept := by
  unfold withdrawOutcome
  split
  · rfl
  · split
    · split
      · simp
      · split <;> simp
    · rfl

@[simp] theorem kept_grantNotice (o : Owner) (l : Byte) (m : Mode) : (s.grantNotice o l m).kept = s.kept := by
  unfold grantNotice
  split
  · rfl
  · split <;> simp

@[simp] theorem kept_flushOutbound : s.flushOutbound.kept = s.kept := rfl

/-! ### Presence Monitor -/

@[simp] theorem kept_loadOwnSilence : s.loadOwnSilence.kept = s.kept := rfl
@[simp] theorem kept_queueEvict (v : Station) : (s.queueEvict v).kept = s.kept := rfl

@[simp] theorem kept_testEviction (v : Station) : (s.testEviction v).kept = s.kept := by
  unfold testEviction
  split <;> rfl

@[simp] theorem kept_clearLone (h : MonitorHandOver) : (s.clearLone h).kept = s.kept := by
  unfold clearLone
  split <;> simp

/-- What each round of a loop leaves alone, the loop leaves alone. -/
theorem kept_foldl {α : Type} {f : State → α → State} (h : ∀ s a, (f s a).kept = s.kept) (l : List α) :
    (l.foldl f s).kept = s.kept := by
  induction l generalizing s with
  | nil => rfl
  | cons a l ih => exact (ih (f s a)).trans (h s a)

@[simp] theorem kept_removeEvicts (h : MonitorHandOver) : (s.removeEvicts h).kept = s.kept :=
  s.kept_foldl (fun s v => by split <;> rfl) _

@[simp] theorem kept_retest : s.retest.kept = s.kept := s.kept_foldl (fun s v => by split <;> simp) _

@[simp] theorem kept_presenceHandOver (h : MonitorHandOver) : (s.presenceHandOver h).kept = s.kept := by
  simp only [presenceHandOver]
  split <;> simp

/-! ### Join Controller -/

@[simp] theorem kept_popJoin : s.popJoin.kept = s.kept := rfl
@[simp] theorem kept_queueMembership (k : MembershipKind) : (s.queueMembership k).kept = s.kept := rfl
@[simp] theorem kept_setJoinWait (t : Timer) : (s.setJoinWait t).kept = s.kept := rfl
@[simp] theorem kept_loadJoinWait : s.loadJoinWait.kept = s.kept := rfl
@[simp] theorem kept_setDropCause (r : DropReason) : (s.setDropCause r).kept = s.kept := rfl
@[simp] theorem kept_completeJoin : s.completeJoin.kept = s.kept := kept_complete _ _ _

@[simp] theorem kept_evaluateDuty (donor head : Option Station) : (s.evaluateDuty donor head).kept = s.kept := by
  simp only [evaluateDuty]
  split
  · simp
  · split <;> simp

@[simp] theorem kept_becomeMember : s.becomeMember.kept = s.kept := by simp [becomeMember]

@[simp] theorem kept_sendJoin : s.sendJoin.kept = s.kept := by simp [sendJoin]

@[simp] theorem kept_enterJoining : s.enterJoining.kept = s.kept := by simp [enterJoining]

@[simp] theorem kept_turnToJoining : s.turnToJoining.kept = s.kept := by
  unfold turnToJoining
  split <;> simp

@[simp] theorem kept_followRecord : s.followRecord.kept = s.kept := by
  unfold followRecord
  split <;> simp

@[simp] theorem kept_earlySnapshot : s.earlySnapshot.kept = s.kept := by
  simp only [earlySnapshot]
  split <;> simp

theorem kept_discardReplica : s.discardReplica.kept = { s.kept with replica := emptyReplica s.straps } := by
  simp [discardReplica, kept_withReplica]

theorem kept_leaveMemberless : s.leaveMemberless.kept = { s.kept with replica := emptyReplica s.straps } := by
  simp [leaveMemberless, kept_discardReplica]

theorem kept_drop (r : DropReason) :
    (s.drop r).kept = { s.kept with replica := emptyReplica s.straps, queue := [] } := by
  have hbefore : ((s.dropOps r).dropJoin r).kept = s.kept := by simp [dropOps, dropJoin]
  have hstraps : ((s.dropOps r).dropJoin r).straps = s.straps := congrArg Kept.straps hbefore
  have hpli := kept_withPli_of_frames ((s.dropOps r).dropJoin r) (x := ((s.dropOps r).dropJoin r).pli.dropped) rfl rfl
  simp only [drop, kept_withHand, kept_withSched, dropMonitor, kept_setLone, kept_withMonitor, kept_discardReplica,
    kept_withIntake, withIntake_straps, withPli_straps, hstraps]
  rw [hpli, hbefore]

/-! ### The line -/

@[simp] theorem kept_addNotice (n : Notice) : (s.addNotice n).kept = s.kept := rfl

@[simp] theorem kept_noticeFor (id : ItemId) (e : NoticeEvent) : (s.noticeFor id e).kept = s.kept := by
  cases id <;> rfl

@[simp] theorem kept_endNotice (e : NoticeEvent) : (s.endNotice e).kept = s.kept := by
  unfold endNotice
  split <;> simp

@[simp] theorem kept_tellJoin (e : ItemEnd) : (s.tellJoin e).kept = s.kept := rfl

@[simp] theorem kept_seeFabric : s.seeFabric.kept = s.kept := by
  unfold seeFabric
  split
  · split <;> rfl
  · rfl

@[simp] theorem kept_ownAccepted : s.ownAccepted.kept = s.kept := by
  simp only [ownAccepted, kept_loadOwnSilence]
  exact (kept_withPli_of_frames _ rfl rfl).trans (by simp)

@[simp] theorem kept_ownVetoed : s.ownVetoed.kept = s.kept := by simp [ownVetoed]

@[simp] theorem kept_withdrawFor (r : DropReason) : (s.withdrawFor r).kept = s.kept := rfl

@[simp] theorem kept_countOwnVeto : s.countOwnVeto.kept = s.kept := by
  unfold countOwnVeto
  split <;> rfl

@[simp] theorem kept_countGivenVeto : s.countGivenVeto.kept = s.kept := by
  unfold countGivenVeto
  split <;> rfl

@[simp] theorem kept_releaseLine : s.releaseLine.kept = s.kept := rfl

@[simp] theorem kept_vetoFrame (e : Bool) : (s.vetoFrame e).kept = s.kept := by
  unfold vetoFrame
  split
  · split <;> simp
  · split
    · split <;> simp
    · simp

theorem kept_acceptFrame :
    s.acceptFrame.kept = { s.kept with queue := (s.intake.accept s.pli.part s.pli.frame).queue } := by
  have hline (u : State) : (u.withPli u.pli.accept).kept = u.kept := by
    apply kept_withPli_of_frames <;> unfold Pli.accept <;> split <;> rfl
  unfold acceptFrame
  split
  · simp [hline, kept_withIntake]
  · split <;> simp [hline, kept_withIntake]

/-- The frame on the line after a bid that wins: what an item of the lists goes out as, or an ALIVE. -/
theorem kept_winBid :
    ∃ b, (b = .alive ∨ ∃ id, b = s.bodyOf id)
      ∧ s.winBid.kept = { s.kept with sent := some (s.fillFrame b), copy := none } := by
  unfold winBid
  split
  · next id _ => exact ⟨s.bodyOf id, .inr ⟨id, rfl⟩, by rw [kept_noticeFor]; rfl⟩
  · exact ⟨.alive, .inl rfl, rfl⟩

/-! ### Requests -/

@[simp] theorem kept_answer (k : RequestKind) (bytes : List Byte) (code : ResultCode) (data : List Byte) :
    (s.answer k bytes code data).kept = s.kept := rfl

/-- A request leaves alone what its decision leaves alone. -/
theorem kept_takeRequest (k : RequestKind) {decision : List Byte → State → State}
    (h : ∀ bytes s, (decision bytes s).kept = s.kept) : (s.takeRequest k decision).kept = s.kept := by
  unfold takeRequest
  split
  · rfl
  · split <;> simp [h]

variable (bytes : List Byte)

@[simp] theorem kept_configure : (s.configure bytes).kept = s.kept := by
  have henter := kept_enter ((s.withSettings (some (setupSettings bytes))).withPort
    { s.port with mask := (arg bytes 2).extractLsb' 0 4 }) .out
  exact (kept_withPli_of_frames _ (congrArg Kept.sent henter).symm (congrArg Kept.copy henter).symm).trans henter

@[simp] theorem kept_decideSetup : (decideSetup bytes s).kept = s.kept := by
  unfold decideSetup
  split
  · rfl
  · split <;> simp

@[simp] theorem kept_decideJoin : (decideJoin bytes s).kept = s.kept := by
  unfold decideJoin
  split <;> simp

@[simp] theorem kept_startLeaving (tag : Byte) : (s.startLeaving tag).kept = s.kept := by simp [startLeaving]

@[simp] theorem kept_decideDetach : (decideDetach bytes s).kept = s.kept := by
  unfold decideDetach
  split <;> simp

@[simp] theorem kept_reenter (h : HoldRecord) (a : Acquire) : (s.reenter bytes h a).kept = s.kept := by
  unfold reenter
  split
  · rfl
  · split <;> rfl

@[simp] theorem kept_newClaim (a : Acquire) : (s.newClaim bytes a).kept = s.kept := by
  unfold newClaim sendClaim
  split_ifs <;> rfl

@[simp] theorem kept_decideAcquire : (decideAcquire bytes s).kept = s.kept := by
  simp only [decideAcquire]
  split_ifs
  · rfl
  · rfl
  · rfl
  · split <;> simp

@[simp] theorem kept_releaseHeld (h : HoldRecord) : (s.releaseHeld bytes h).kept = s.kept := by
  unfold releaseHeld
  split <;> rfl

@[simp] theorem kept_decideRelease : (decideRelease bytes s).kept = s.kept := by
  unfold decideRelease
  split
  · rfl
  · split <;> simp

@[simp] theorem kept_attach (tag : Byte) (o : Owner) (l : Byte) : (s.attach tag o l).kept = s.kept := rfl

@[simp] theorem kept_cancelTarget (tag : Byte) (a : Acquire) : (s.cancelTarget tag a).kept = s.kept := by
  unfold cancelTarget
  split <;> simp

@[simp] theorem kept_decideCancel : (decideCancel bytes s).kept = s.kept := by
  unfold decideCancel
  split
  · rfl
  · split
    · rfl
    · split <;> simp

@[simp] theorem kept_decideQueryLock : (decideQueryLock bytes s).kept = s.kept := by
  unfold decideQueryLock
  split <;> rfl

@[simp] theorem kept_decideAck : (decideAck bytes s).kept = s.kept := by
  unfold decideAck
  split <;> rfl

/-! ### The tick -/

@[simp] theorem kept_edge (x : TickSource) : (s.edge x).kept = s.kept := by cases x <;> rfl

@[simp] theorem kept_tick (quiet : Bool) : (s.tick quiet).kept = s.kept := rfl

/-! ### Applications -/

theorem kept_handOn (f : Frame) (a : Applied) :
    (s.handOn f a).kept = { s.kept with replica := a.replica.countFrame f.sender } := by
  simp only [handOn]
  split <;> cases a.epoch <;> rfl

end State
end Sys2Proof.Machine
end

