-- ==== Sys2Proof/Proofs/LockTable/KeptSteps.lean ====
section
/-! PROOFS. What one command can do to the replica and to the frames kept, said once for every command. -/
namespace Sys2Proof.Machine
open Sys2Proof.Safety

/-- The effect of a frame of any kind, as the apply command of its kind finds it (04 R78). -/
def State.effectOf (s : State) (f : Frame) : Option Applied :=
  match f.body with
  | .alive => s.screened f [] Applied.plain
  | .join d => s.joinEffect f d
  | .found d => s.foundEffect f d
  | .leave => s.leaveEffect f
  | .evict v c => s.evictEffect f v c
  | .refuse j reason => s.refuseEffect f j reason
  | .snaphead h => s.snapheadEffect f h
  | .snapdata j start es => s.snapdataEffect f j start es
  | .claim o l m w => s.claimEffect f o l m w
  | .free o l => s.freeEffect f o l
  | .withdraw o l => s.withdrawEffect f o l

/-- What a command can make of the replica and the frames kept of s. -/
inductive KeptStep (s : State) : Kept → Prop where
  | same : KeptStep s s.kept
  /-- The release of RESET. -/
  | restarted (p : Straps) : KeptStep s (resetState p).kept
  /-- A joiner leaves a memberless fabric, or the station drops and its apply queue is emptied. -/
  | forgotten (queue : List Frame) : queue ⊆ s.intake.queue →
      KeptStep s { s.kept with replica := emptyReplica s.straps, queue := queue }
  /-- No frame is on the line: RESET, the start of a reception, a veto. -/
  | lineCleared : KeptStep s { s.kept with sent := none, copy := none }
  /-- A bid is won. -/
  | sends (b : FrameBody) : (b = .alive ∨ ∃ id, b = s.bodyOf id) →
      KeptStep s { s.kept with sent := some (s.fillFrame b), copy := none }
  /-- A frame has been received. -/
  | receives (levels : List Level) :
      KeptStep s { s.kept with copy := receiveFrame s.replica.lockLimit levels }
  /-- The frame on the line is accepted. -/
  | accepts : KeptStep s
      { s.kept with queue := (s.intake.accept s.pli.part s.pli.frame).queue, sent := none, copy := none }
  /-- The head of the apply queue is applied. -/
  | applies (f : Frame) (rest : List Frame) (a : Applied) :
      s.intake.queue = f :: rest → (popped s rest).effectOf f = some a →
      KeptStep s { s.kept with replica := a.replica.countFrame f.sender, queue := rest }
  /-- The head of the apply queue is discarded. -/
  | discards (f : Frame) (rest : List Frame) : s.intake.queue = f :: rest →
      KeptStep s { s.kept with queue := rest }

namespace KeptStep
variable {s t : State}

theorem of_eq {k : Kept} (h : k = s.kept) : KeptStep s k := h ▸ .same

/-- A command that takes place only while the part runs. -/
theorem of_whenRunning {f : State → State} (ht : s.whenRunning f = .next t) (h : KeptStep s (f s).kept) :
    KeptStep s t.kept := by
  cases hr : s.resetHeld
  · rw [State.whenRunning_of_released s f hr] at ht
    cases ht
    exact h
  · rw [State.whenRunning_of_held s f hr] at ht
    cases ht
    exact .same

/-- A command that leaves the replica and the frames alone. -/
theorem of_kept {f : State → State} (ht : s.whenRunning f = .next t) (h : (f s).kept = s.kept) : KeptStep s t.kept :=
  of_whenRunning ht (of_eq h)

/-- A command that applies frames of one kind. -/
theorem of_applyHead {k : FrameKind} {effect : Frame → State → Option Applied}
    (ht : (s.whenRunning fun s => s.applyHead k effect) = .next t)
    (h : ∀ f s, f.body.kind = k → effect f s = s.effectOf f) : KeptStep s t.kept := by
  refine of_whenRunning ht ?_
  unfold State.applyHead
  split
  · next f hf =>
    obtain ⟨rest, hq⟩ := List.head?_eq_some_iff.1 hf
    split
    · next hk =>
      have hpop := State.popFrame_eq hq
      split
      · next a ha =>
        rw [h f _ hk.1, hpop] at ha
        rw [State.kept_settleAlive, State.kept_handOn, hpop]
        exact .applies f rest a hq ha
      · rw [State.kept_settleAlive, hpop]
        exact .discards f rest hq
    · exact .same
  · exact .same

/-- The end of a veto slot clears the line after the frame's acceptance or its veto. -/
theorem vetoSlotEnd (markE markF inPlace : Bool) (ht : execVetoSlotEnd markE markF inPlace s = .next t) :
    KeptStep s t.kept := by
  refine of_whenRunning ht ?_
  have hcleared (u : State) : ((u.withPli (u.pli.afterSlot inPlace)).settleAlive).kept
      = { u.kept with sent := none, copy := none } := by
    rw [State.kept_settleAlive, State.kept_withPli]
    rfl
  split
  · simp only [hcleared]
    split
    · rw [State.kept_vetoFrame]
      exact .lineCleared
    · rw [State.kept_acceptFrame]
      exact .accepts
  · exact .same

theorem frameEnd (levels : List Level) (ht : execFrameEnd levels s = .next t) : KeptStep s t.kept := by
  refine of_whenRunning ht ?_
  split
  · exact of_eq (State.kept_withPli_of_frames _ rfl rfl)
  · exact .receives levels
  · exact .same

theorem windowClose (slots : BitVec 16) (frameStart : Bool) (ht : execWindowClose slots frameStart s = .next t) :
    KeptStep s t.kept := by
  refine of_whenRunning ht ?_
  have hempty : KeptStep s (s.withPli s.pli.closeEmpty).kept := of_eq (State.kept_withPli_of_frames _ rfl rfl)
  split
  · split
    · exact hempty
    · split
      · obtain ⟨b, hb, hkept⟩ := s.kept_winBid
        exact hkept ▸ .sends b hb
      · split
        · exact .lineCleared
        · exact hempty
  · exact .same

theorem joinWaitExpiry (ht : execJoinWaitExpiry s = .next t) : KeptStep s t.kept := by
  refine of_whenRunning ht ?_
  have hleave : KeptStep s s.leaveMemberless.kept := s.kept_leaveMemberless ▸ .forgotten _ (List.Subset.refl _)
  split
  · split
    · split
      · exact hleave
      · exact of_eq (by split <;> simp)
    · split
      · exact hleave
      · exact of_eq s.kept_sendJoin
    · exact .same
  · exact .same

theorem drop (ht : execDrop s = .next t) : KeptStep s t.kept := by
  refine of_whenRunning ht ?_
  split
  · split
    · exact State.kept_drop s _ ▸ .forgotten [] (List.nil_subset _)
    · exact .same
  · exact .same

theorem resetRelease (p : Straps) (ht : execResetRelease p s = .next t) : KeptStep s t.kept := by
  rw [execResetRelease] at ht
  split at ht <;> cases ht
  · exact .restarted p
  · exact .same

end KeptStep

/-- What a command can do to the replica and the frames kept. -/
theorem exec_keptStep {s t : State} (i : Instr) (ht : exec i s = .next t) : KeptStep s t.kept := by
  cases i with
  | hardwareReset => cases ht; exact .lineCleared
  | resetRelease p => exact .resetRelease p ht
  | joinWaitExpiry => exact .joinWaitExpiry ht
  | windowClose slots frameStart => exact .windowClose slots frameStart ht
  | frameEnd levels => exact .frameEnd levels ht
  | vetoSlotEnd markE markF inPlace => exact .vetoSlotEnd markE markF inPlace ht
  | drop => exact .drop ht
  | applyClaim | applyFree | applyWithdraw | applyJoin | applyFound | applyLeave | applyEvict | applyRefuse
  | applySnaphead | applySnapdata | applyAlive =>
    refine .of_applyHead ht fun f s hk => ?_
    obtain ⟨_, _, _, body⟩ := f
    cases body <;> cases hk
    rfl
  | setup => exact .of_kept (show execSetup s = .next t from ht) (s.kept_takeRequest _ (by simp))
  | join => exact .of_kept (show execJoin s = .next t from ht) (s.kept_takeRequest _ (by simp))
  | detach => exact .of_kept (show execDetach s = .next t from ht) (s.kept_takeRequest _ (by simp))
  | acquire => exact .of_kept (show execAcquire s = .next t from ht) (s.kept_takeRequest _ (by simp))
  | release => exact .of_kept (show execRelease s = .next t from ht) (s.kept_takeRequest _ (by simp))
  | cancel => exact .of_kept (show execCancel s = .next t from ht) (s.kept_takeRequest _ (by simp))
  | queryLock => exact .of_kept (show execQueryLock s = .next t from ht) (s.kept_takeRequest _ (by simp))
  | queryMembers => exact .of_kept (show execQueryMembers s = .next t from ht) (s.kept_takeRequest _ fun _ _ => rfl)
  | queryStation => exact .of_kept (show execQueryStation s = .next t from ht) (s.kept_takeRequest _ fun _ _ => rfl)
  | ack => exact .of_kept (show execAck s = .next t from ht) (s.kept_takeRequest _ (by simp))
  | tick x => exact .of_kept (show execTick x s = .next t from ht) (by split <;> simp)
  | idleMeasureExpiry =>
    exact .of_kept (show execIdleMeasureExpiry s = .next t from ht) (s.kept_ite_withPli _ rfl rfl)
  | lineIdleGap => exact .of_kept (show execLineIdleGap s = .next t from ht) (s.kept_ite_withPli _ rfl rfl)
  | startMark source => exact .of_kept (show execStartMark source s = .next t from ht) (s.kept_ite_withPli _ rfl rfl)
  | ownSlotBegins => exact .of_kept (show execOwnSlotBegins s = .next t from ht) (s.kept_ite_withPli _ rfl rfl)
  | dominantPulse => exact .of_kept (show execDominantPulse s = .next t from ht) (s.kept_ite_withPli _ rfl rfl)
  | waitTimerExpiry o l => exact .of_kept (show execWaitTimerExpiry o l s = .next t from ht) (by split <;> simp)
  | ownSilenceExpiry => exact .of_kept (show execOwnSilenceExpiry s = .next t from ht) (by split <;> simp)
  | silenceCountdownExpiry v =>
    exact .of_kept (show execSilenceCountdownExpiry v s = .next t from ht) (by split <;> simp)
  | isolationExpiry => exact .of_kept (show execIsolationExpiry s = .next t from ht) (by split <;> simp)
  | rejoinTimerExpiry => exact .of_kept (show execRejoinTimerExpiry s = .next t from ht) (by split <;> simp)
  | claimOutcome => exact .of_kept (show execClaimOutcome s = .next t from ht) (by split <;> simp)
  | freeOutcome => exact .of_kept (show execFreeOutcome s = .next t from ht) (by split <;> simp)
  | withdrawOutcome => exact .of_kept (show execWithdrawOutcome s = .next t from ht) (by split <;> simp)
  | grantNotice => exact .of_kept (show execGrantNotice s = .next t from ht) (by split <;> simp)
  | lockFrameOnLine => exact .of_kept (show execLockFrameOnLine s = .next t from ht) (by split <;> simp)
  | lockFrameAccepted => exact .of_kept (show execLockFrameAccepted s = .next t from ht) (by split <;> simp)
  | lockFrameVetoed =>
    refine .of_kept (show execLockFrameVetoed s = .next t from ht) ?_
    split
    · split <;> simp
    · rfl
  | ownJoinApplied => exact .of_kept (show execOwnJoinApplied s = .next t from ht) (by split <;> simp)
  | ownFoundApplied => exact .of_kept (show execOwnFoundApplied s = .next t from ht) (by split <;> simp)
  | otherFoundApplied => exact .of_kept (show execOtherFoundApplied s = .next t from ht) (by split <;> simp)
  | ownSnapheadTaken => exact .of_kept (show execOwnSnapheadTaken s = .next t from ht) (by split <;> simp)
  | ownSnapdataTaken => exact .of_kept (show execOwnSnapdataTaken s = .next t from ht) (by split <;> simp)
  | membershipItemRemoved => exact .of_kept (show execMembershipItemRemoved s = .next t from ht) (by split <;> simp)
  | refuseTaken => exact .of_kept (show execRefuseTaken s = .next t from ht) (by split <;> simp)
  | ownLeaveApplied => exact .of_kept (show execOwnLeaveApplied s = .next t from ht) (by split <;> simp)
  | evictNamingSelf => exact .of_kept (show execEvictNamingSelf s = .next t from ht) (by split <;> simp)
  | donorDutyEvaluation => exact .of_kept (show execDonorDutyEvaluation s = .next t from ht) (by split <;> simp)
  | presenceHandOver => exact .of_kept (show execPresenceHandOver s = .next t from ht) (by split <;> simp)
  | kindByteWrite access value =>
    exact .of_kept (show execKindByteWrite access value s = .next t from ht) (by split <;> simp)
  | argumentByteWrite access value =>
    exact .of_kept (show execArgumentByteWrite access value s = .next t from ht) (by split <;> simp)
  | replyRead access => exact .of_kept (show execReplyRead access s = .next t from ht) (by split <;> simp)

end Sys2Proof.Machine
end

