-- ==== Sys2Proof/Proofs/LockTable/SoundEntries.lean ====
section
/-! PROOFS. Sound entries (01 R1 to R3): what a regrant needs of an entry, and that grants, queues, departures and
regrants leave sound entries. -/
namespace Sys2Proof.Machine
open Sys2Proof.Safety

/-- The holders fit the state (01 R1). -/
def StateFits (st : EntryState) (hs : List Claimant) : Prop :=
  match st with
  | .free => hs = []
  | .excl => hs.length = 1
  | .shared => 1 ≤ hs.length ∧ hs.length ≤ 8
  | .unknown => hs = []

/-- An entry that a regrant makes sound: all of EntrySound but the empty queue of a FREE entry. -/
structure BeforeRegrant (st : EntryState) (hs : List Claimant) (ws : List Waiter) : Prop where
  fits : StateFits st hs
  ascending : hs.Pairwise fun a b => a.before b = true
  queue : ws.length ≤ 16
  nodup : (hs ++ ws.map Waiter.claimant).Nodup

theorem entrySound_iff (e : LockEntry) :
    EntrySound e
      ↔ BeforeRegrant e.state e.holders e.waiters ∧ (e.state = .free ∨ e.state = .unknown → e.waiters = []) := by
  obtain ⟨st, hs, ws⟩ := e
  constructor
  · rintro ⟨hfits, hasc, hq, hn⟩
    cases st with
    | free | unknown => exact ⟨⟨hfits.1, hasc, hq, hn⟩, fun _ => hfits.2⟩
    | excl | shared => exact ⟨⟨hfits, hasc, hq, hn⟩, nofun⟩
  · rintro ⟨⟨hfits, hasc, hq, hn⟩, hempty⟩
    refine ⟨?_, hasc, hq, hn⟩
    cases st with
    | free | unknown => exact ⟨hfits, hempty (by simp)⟩
    | excl | shared => exact hfits

theorem beforeRegrant_of_sound {e : LockEntry} (h : EntrySound e) : BeforeRegrant e.state e.holders e.waiters :=
  ((entrySound_iff e).1 h).1

theorem entrySound_unknown : EntrySound unknownEntry := ⟨⟨rfl, rfl⟩, .nil, Nat.zero_le 16, .nil⟩

theorem entrySound_free : EntrySound ⟨.free, [], []⟩ := ⟨⟨rfl, rfl⟩, .nil, Nat.zero_le 16, .nil⟩

namespace BeforeRegrant
variable {st : EntryState} {hs : List Claimant} {w : Waiter} {ws : List Waiter}

/-- The head waiter does not hold. -/
theorem head_not_holder (h : BeforeRegrant st hs (w :: ws)) : w.claimant ∉ hs := fun hw =>
  (List.nodup_append.1 h.nodup).2.2 _ hw _ (List.mem_cons_self ..) rfl

/-- The head waiter joins the holders; the state follows. -/
theorem grant_head {st' : EntryState} (h : BeforeRegrant st hs (w :: ws))
    (hfits : StateFits st' (insertHolder w.claimant hs)) : BeforeRegrant st' (insertHolder w.claimant hs) ws where
  fits := hfits
  ascending := insertHolder_pairwise h.head_not_holder h.ascending
  queue := (Nat.le_succ _).trans h.queue
  nodup := by
    have hperm := ((insertHolder_perm h.head_not_holder).append_right (ws.map Waiter.claimant)).symm
    exact hperm.nodup (List.perm_middle.nodup h.nodup)

/-- Holders and waiters leave. -/
theorem leave {hs' : List Claimant} {ws' : List Waiter} (h : BeforeRegrant st hs ws) (st' : EntryState)
    (hfits : StateFits st' hs') (hhs : hs'.Sublist hs) (hws : ws'.Sublist ws) : BeforeRegrant st' hs' ws' where
  fits := hfits
  ascending := h.ascending.sublist hhs
  queue := hws.length_le.trans h.queue
  nodup := h.nodup.sublist (hhs.append (hws.map _))

/-- Where holders leave a known entry, the state is FREE when none remains, and else as it was. -/
theorem fits_of_sublist {hs' : List Claimant} (h : BeforeRegrant st hs ws) (hk : st ≠ .unknown) (hhs : hs'.Sublist hs) :
    StateFits (if hs' = [] then .free else st) hs' := by
  have hlen := hhs.length_le
  have hfits := h.fits
  split
  · next hnone => exact hnone
  · next hsome =>
    have hpos := List.length_pos_iff.2 hsome
    cases st with
    | free => exact absurd (List.sublist_nil.1 (hfits ▸ hhs)) hsome
    | excl => exact Nat.le_antisymm (hlen.trans_eq hfits) hpos
    | shared => exact ⟨hpos, hlen.trans hfits.2⟩
    | unknown => exact absurd rfl hk

end BeforeRegrant

/-- A regrant at a known entry leaves a sound entry: at a FREE one the head is granted whatever its mode. -/
theorem Regrants.sound {st : EntryState} {hs : List Claimant} {ws granted : List Waiter} {e : LockEntry}
    (h : Regrants st hs ws e granted) (hk : st ≠ .unknown) (hb : BeforeRegrant st hs ws) : EntrySound e := by
  induction h with
  | done => exact (entrySound_iff _).2 ⟨hb, fun _ => rfl⟩
  | stops st hs w ws hp =>
    refine (entrySound_iff _).2 ⟨hb, fun hst => absurd (hst.resolve_right hk) ?_⟩
    rintro rfl
    rw [permits_free] at hp
    cases hp
  | grantsX hs w ws _ =>
    have hnone : hs = [] := hb.fits
    have hfits : StateFits .excl (insertHolder w.claimant hs) := by rw [hnone]; rfl
    exact (entrySound_iff _).2 ⟨hb.grant_head hfits, nofun⟩
  | grantsS st hs w ws e granted _ hp _ ih =>
    have hlen := length_insertHolder hb.head_not_holder
    refine ih nofun (hb.grant_head (st' := .shared) ?_)
    rcases hp with rfl | ⟨rfl, hroom⟩
    · have hnone : hs = [] := hb.fits
      exact ⟨by omega, by rw [hlen, hnone]; decide⟩
    · exact ⟨by omega, by omega⟩

theorem LockEntry.regrant_sound {e : LockEntry} (hk : e.state ≠ .unknown)
    (hb : BeforeRegrant e.state e.holders e.waiters) : EntrySound e.regrant.1 := e.regrant_regrants.sound hk hb

/-- A direct grant is the regrant of a queue of one. -/
theorem LockEntry.grant_regrants {e : LockEntry} (c : Claimant) {m : Mode} (hg : e.grantable m = true) :
    Regrants e.state e.holders [⟨c, m⟩] (e.grant c m) [⟨c, m⟩] := by
  obtain ⟨st, hs, ws⟩ := e
  obtain ⟨rfl, hp⟩ := (LockEntry.grantable_iff _ _).1 hg
  cases m with
  | x =>
    obtain rfl := (permits_x_iff st hs).1 hp
    exact .grantsX hs ⟨c, .x⟩ [] rfl
  | s => exact .grantsS st hs ⟨c, .s⟩ [] _ [] rfl ((permits_s_iff st hs).1 hp) (.done _ _)

theorem LockEntry.not_named {e : LockEntry} {c : Claimant} (hn : e.names c ≠ true) :
    c ∉ e.holders ∧ c ∉ e.waiters.map Waiter.claimant :=
  not_or.1 fun h => hn ((e.names_iff c).2 h)

/-- A claimant that stands nowhere in the entry joins the tail of its queue. -/
theorem BeforeRegrant.enqueue {e : LockEntry} {c : Claimant} (m : Mode)
    (h : BeforeRegrant e.state e.holders e.waiters) (hn : e.names c ≠ true) (hroom : e.waiters.length < 16) :
    BeforeRegrant e.state e.holders (e.waiters ++ [⟨c, m⟩]) where
  fits := h.fits
  ascending := h.ascending
  queue := by simpa using hroom
  nodup := by
    obtain ⟨hh, hw⟩ := LockEntry.not_named hn
    have hc : c ∉ e.holders ++ e.waiters.map Waiter.claimant := fun hm => (List.mem_append.1 hm).elim hh hw
    rw [List.map_append, ← List.append_assoc]
    exact (List.perm_append_singleton _ _).symm.nodup (List.nodup_cons.2 ⟨hc, h.nodup⟩)

namespace LockEntry
variable {e : LockEntry} {c : Claimant} {m : Mode} (h : EntrySound e) (hk : e.state ≠ .unknown)
include h hk

theorem grant_sound (hn : e.names c ≠ true) (hg : e.grantable m = true) : EntrySound (e.grant c m) := by
  have hempty := ((LockEntry.grantable_iff e m).1 hg).1
  have hb := (beforeRegrant_of_sound h).enqueue m hn (by rw [hempty]; decide)
  rw [hempty] at hb
  exact (LockEntry.grant_regrants c hg).sound hk hb

/-- A waiter joins the queue of an entry at which its claim may not be granted, which is not FREE. -/
theorem enqueue_sound (hn : e.names c ≠ true) (hg : ¬ e.grantable m = true) (hroom : e.waiters.length < 16) :
    EntrySound { e with waiters := e.waiters ++ [⟨c, m⟩] } := by
  refine (entrySound_iff _).2 ⟨(beforeRegrant_of_sound h).enqueue m hn hroom, fun hst => ?_⟩
  have hfree : e.state = .free := hst.resolve_right hk
  have hempty := ((entrySound_iff e).1 h).2 (.inl hfree)
  exact absurd ((LockEntry.grantable_iff e m).2 ⟨hempty, hfree ▸ permits_free _ m⟩) hg

/-- Holders and waiters leave, and the regrant follows (01 R19, R22). -/
theorem leave_regrant_sound (p : Claimant → Bool) (q : Waiter → Bool) :
    EntrySound ({ state := if e.holders.filter p = [] then .free else e.state, holders := e.holders.filter p
                  waiters := e.waiters.filter q } : LockEntry).regrant.1 := by
  have hb := beforeRegrant_of_sound h
  refine LockEntry.regrant_sound ?_ (hb.leave _ (hb.fits_of_sublist hk List.filter_sublist) List.filter_sublist
    List.filter_sublist)
  show (if _ then _ else _) ≠ _
  split
  · nofun
  · exact hk

/-- Waiters leave, and the regrant follows (01 R20). -/
theorem waiters_leave_regrant_sound (q : Waiter → Bool) :
    EntrySound ({ e with waiters := e.waiters.filter q } : LockEntry).regrant.1 :=
  have hb := beforeRegrant_of_sound h
  LockEntry.regrant_sound hk (hb.leave _ hb.fits (.refl _) List.filter_sublist)

end LockEntry

theorem LockEntry.removeStation_sound {e : LockEntry} (h : EntrySound e) (s : Station) :
    EntrySound (e.removeStation s).1 := by
  by_cases hk : e.state = .unknown
  · rwa [LockEntry.removeStation_unknown s hk]
  · rw [LockEntry.removeStation_known s hk]
    exact LockEntry.leave_regrant_sound h hk _ _

/-! ### Tables of sound entries -/

/-- A table of n entries, each sound. -/
def TableSound (n : Nat) (locks : List LockEntry) : Prop := locks.length = n ∧ ∀ e ∈ locks, EntrySound e

namespace TableSound
variable {n : Nat} {r : Replica}

theorem replicate {e : LockEntry} (n : Nat) (he : EntrySound e) : TableSound n (List.replicate n e) :=
  ⟨List.length_replicate, fun _ hm => (List.eq_of_mem_replicate hm) ▸ he⟩

theorem map {locks : List LockEntry} {g : LockEntry → LockEntry} (h : TableSound n locks)
    (hg : ∀ e, EntrySound e → EntrySound (g e)) : TableSound n (locks.map g) :=
  ⟨(List.length_map _).trans h.1, List.forall_mem_map.2 fun e he => hg e (h.2 e he)⟩

theorem entry (h : TableSound n r.locks) (l : Byte) : EntrySound (r.entry l) := by
  rw [Replica.entry, List.getD_eq_getElem?_getD]
  cases hl : r.locks[l.toNat]? with
  | none => exact entrySound_unknown
  | some e => exact h.2 e (List.mem_of_getElem? hl)

theorem setEntry (h : TableSound n r.locks) (l : Byte) {e : LockEntry} (he : EntrySound e) :
    TableSound n (r.setEntry l e).locks :=
  ⟨List.length_set.trans h.1, fun _ hm => (List.mem_or_eq_of_mem_set hm).elim (h.2 _) (· ▸ he)⟩

theorem forgetLocks (h : TableSound n r.locks) : TableSound n r.forgetLocks.locks :=
  h.map fun _ _ => entrySound_unknown

theorem rewind (h : TableSound n r.locks) (self : Station) (k : Nat) : TableSound n (r.rewind self k).locks := by
  refine ⟨(Replica.length_rewind_locks self k r).trans h.1, ?_⟩
  cases hp : r.members[self].state.loadedPast k
  · rw [Replica.rewind_locks_kept hp]
    exact h.2
  · rw [Replica.rewind_locks_past hp]
    exact List.forall_mem_append.2
      ⟨fun e he => h.2 e (List.mem_of_mem_take he), List.forall_mem_map.2 fun _ _ => entrySound_unknown⟩

theorem poolTest {c : Claimant} {l : Byte} {m : Mode} (h : TableSound n r.locks) (hk : (r.entry l).state ≠ .unknown)
    (hn : (r.entry l).names c ≠ true) (hg : ¬ (r.entry l).grantable m = true)
    (hroom : (r.entry l).waiters.length < 16) :
    TableSound n (r.poolTest c l m).1.locks := by
  simp only [Replica.poolTest]
  split
  · exact h
  · split
    · exact h
    · exact h.setEntry l (LockEntry.enqueue_sound (h.entry l) hk hn hg hroom)

theorem claim (h : TableSound n r.locks) (self : Station) (c : Claimant) (l : Byte) (m : Mode) (w : Bool) :
    TableSound n (r.claim self c l m w).1.locks := by
  by_cases hskip : (r.entry l).state = .unknown ∨ r.members[c.station].state ≠ .member
  · rwa [Replica.claim_skipped hskip]
  obtain ⟨hk, hm⟩ := not_or.1 hskip
  rw [Replica.claim_considered hk (not_not.1 hm)]
  split
  · exact h
  next hn =>
  split
  · next hg => exact h.setEntry l (LockEntry.grant_sound (h.entry l) hk hn hg)
  next hg =>
  split
  · exact h
  split
  · exact h
  next hroom =>
  split
  · exact h.rewind self l.toNat
  next hk' =>
  have hp : r.members[self].state.loadedPast l.toNat = false :=
    Bool.eq_false_iff.2 fun hp => hk' (by rw [Replica.entry_rewind_past hp]; rfl)
  have he := Replica.entry_eq_of_locks (Replica.rewind_locks_kept hp) l
  exact (h.rewind self l.toNat).poolTest hk' (he ▸ hn) (he ▸ hg) (he ▸ Nat.not_le.1 hroom)

theorem free (h : TableSound n r.locks) (c : Claimant) (l : Byte) : TableSound n (r.free c l).1.locks := by
  by_cases hk : (r.entry l).state = .unknown
  · rwa [Replica.free_skipped hk]
  by_cases hc : c ∈ (r.entry l).holders
  · rw [Replica.free_holder hk hc]
    have he := LockEntry.leave_regrant_sound (h.entry l) hk (fun h => h ≠ c) fun _ => true
    rw [List.filter_true] at he
    exact h.setEntry l he
  · rwa [Replica.free_notHolder hk hc]

theorem withdraw (h : TableSound n r.locks) (c : Claimant) (l : Byte) : TableSound n (r.withdraw c l).1.locks := by
  by_cases hk : (r.entry l).state = .unknown
  · rwa [Replica.withdraw_skipped hk]
  by_cases hw : c ∈ (r.entry l).waiters.map Waiter.claimant
  · rw [Replica.withdraw_waiter hk hw]
    exact h.setEntry l (LockEntry.waiters_leave_regrant_sound (h.entry l) hk _)
  by_cases hc : c ∈ (r.entry l).holders
  · rwa [Replica.withdraw_holder hk hw hc]
  · rwa [Replica.withdraw_notWaiting hk hw hc]

theorem removeStation (h : TableSound n r.locks) (s : Station) : TableSound n (r.removeStation s).1.locks := by
  rw [Replica.removeStation_locks]
  exact h.map fun _ he => LockEntry.removeStation_sound he s

theorem expel (h : TableSound n r.locks) (s : Station) : TableSound n (r.expel s).1.locks := h.removeStation s

/-- Installed entries are sound where the frame's are. -/
theorem installEntries (es : List SnapEntry) : ∀ {r : Replica}, TableSound n r.locks →
    (∀ e ∈ es, EntrySound e.entry) → TableSound n (r.installEntries es).locks := by
  induction es with
  | nil => exact fun h _ => h
  | cons e es ih =>
    intro r h he
    obtain ⟨he, hes⟩ := List.forall_mem_cons.1 he
    exact ih (h.setEntry e.lock he) hes

end TableSound
end Sys2Proof.Machine
end

