-- ==== Sys2Proof/Proofs/LockTable/ReceivedEntries.lean ====
section
/-! PROOFS. The snapshot entries of a frame that passes the form checks of a receiver are sound (05 R95). -/
namespace Sys2Proof.Machine
open Sys2Proof.Safety

theorem claimantOfByte_injective : Function.Injective claimantOfByte := by
  intro a b h
  simp only [claimantOfByte, highNibble, lowNibble, Claimant.mk.injEq, Fin.ext_iff, Fin.ofNat] at h
  bv_omega

/-- Ascending bytes are claimants in ascending order. -/
theorem claimantOfByte_before {a b : Byte} (h : a.toNat < b.toNat) :
    (claimantOfByte a).before (claimantOfByte b) = true := by
  simp only [Claimant.before_iff, claimantOfByte, highNibble, lowNibble, Fin.ofNat]
  omega

theorem pairwise_of_strictlyAscending : ∀ {bytes : List Byte}, strictlyAscending bytes = true →
    bytes.Pairwise fun a b => a.toNat < b.toNat
  | [], _ => .nil
  | [a], _ => List.pairwise_singleton _ a
  | a :: b :: rest, h => by
    simp only [strictlyAscending, Bool.and_eq_true, decide_eq_true_eq] at h
    obtain ⟨hab, hrest⟩ := h
    have hp := pairwise_of_strictlyAscending hrest
    refine List.pairwise_cons.2 ⟨fun x hx => ?_, hp⟩
    rcases List.mem_cons.1 hx with rfl | hx
    · exact hab
    · exact hab.trans (List.rel_of_pairwise_cons hp hx)

theorem nodup_of_noRepeats {α : Type} [DecidableEq α] : ∀ {l : List α}, noRepeats l = true → l.Nodup
  | [], _ => .nil
  | a :: l, h => by
    obtain ⟨hnew, hrest⟩ : a ∉ l ∧ noRepeats l = true := by simpa [noRepeats] using h
    exact List.nodup_cons.2 ⟨hnew, nodup_of_noRepeats hrest⟩

theorem length_modesOf : ∀ {w : Nat} {map : Word16} {ms : List Mode}, modesOf w map = some ms → ms.length = w
  | 0, map, ms, h => by
    rw [modesOf] at h
    split at h <;> cases h
    rfl
  | w + 1, map, ms, h => by
    obtain ⟨ms', hms', rfl⟩ := Option.map_eq_some_iff.1 h
    exact congrArg (· + 1) (length_modesOf hms')

/-- The state code of an entry fits its counts. -/
theorem entryStateOf_some {code h w : Nat} {st : EntryState} (hst : entryStateOf code h w = some st)
    {hs : List Claimant} (hlen : hs.length = h) :
    StateFits st hs ∧ w ≤ 16 ∧ (st = .free ∨ st = .unknown → w = 0) := by
  unfold entryStateOf at hst
  split at hst
  · split at hst <;> cases hst
    next hz => exact ⟨List.length_eq_zero_iff.1 (hlen.trans hz.1), by omega, fun _ => hz.2⟩
  · split at hst <;> cases hst
    next hz => exact ⟨hlen.trans hz.1, hz.2, nofun⟩
  · split at hst <;> cases hst
    next hz => exact ⟨⟨hlen ▸ hz.1, hlen ▸ hz.2.1⟩, hz.2.2, nofun⟩
  · cases hst

theorem map_claimant_zipWith {cs : List Claimant} {ms : List Mode} (h : cs.length = ms.length) :
    (cs.zipWith Waiter.mk ms).map Waiter.claimant = cs := by
  rw [List.map_zipWith]
  exact (List.map_zip_eq_zipWith (f := Prod.fst)).symm.trans (List.map_fst_zip h.le)

/-- An entry put together from ascending holder bytes and waiters, none named twice, with a state that fits. -/
theorem entrySound_of_bytes {st : EntryState} {hs ws : List Byte} {waiters : List Waiter}
    (hfits : StateFits st (hs.map claimantOfByte)) (hroom : ws.length ≤ 16)
    (hempty : st = .free ∨ st = .unknown → ws.length = 0) (hasc : strictlyAscending hs = true)
    (hnodup : noRepeats (hs ++ ws) = true) (hw : waiters.map Waiter.claimant = ws.map claimantOfByte) :
    EntrySound ⟨st, hs.map claimantOfByte, waiters⟩ := by
  have hlen : waiters.length = ws.length := by simpa using congrArg List.length hw
  refine (entrySound_iff _).2 ⟨⟨hfits, ?_, hlen.trans_le hroom, ?_⟩, fun hst => ?_⟩
  · exact List.pairwise_map.2 ((pairwise_of_strictlyAscending hasc).imp claimantOfByte_before)
  · rw [hw, ← List.map_append]
    exact (nodup_of_noRepeats hnodup).map claimantOfByte_injective
  · exact List.length_eq_zero_iff.1 (hlen.trans (hempty hst))

theorem decodeEntry_sound {bytes rest : List Byte} {e : SnapEntry} (h : decodeEntry bytes = some (e, rest)) :
    EntrySound e.entry := by
  match bytes with
  | [] | [_] | [_, _] => cases h
  | lock :: b1 :: b2 :: more =>
    simp only [decodeEntry] at h
    split at h
    case isFalse => cases h
    next hform =>
    obtain ⟨-, hlong, hasc, hnodup⟩ := hform
    split at h
    · cases h
    next st hst =>
    have hhs : (more.take (lowNibble b1).val).length = (lowNibble b1).val := by simp; omega
    have hws : ((more.drop (lowNibble b1).val).take b2.toNat).length = b2.toNat := by simp; omega
    obtain ⟨hfits, hroom, hempty⟩ := entryStateOf_some hst
      (hs := (more.take (lowNibble b1).val).map claimantOfByte) ((List.length_map _).trans hhs)
    have hsound {waiters : List Waiter} := entrySound_of_bytes (waiters := waiters) hfits (hws.trans_le hroom)
      (fun hst => hws.trans (hempty hst)) hasc hnodup
    split at h
    · next hzero =>
      cases h
      refine hsound ?_
      rw [hzero, List.take_zero]
      rfl
    · split at h
      · obtain ⟨ms, hms, heq⟩ := Option.map_eq_some_iff.1 h
        cases heq
        refine hsound (map_claimant_zipWith ?_)
        rw [List.length_map, hws, length_modesOf hms]
      · cases h

theorem decodeEntries_sound : ∀ {fuel limit next : Nat} {bytes : List Byte} {es : List SnapEntry},
    decodeEntries fuel limit next bytes = some es → ∀ e ∈ es, EntrySound e.entry
  | _, _, _, [], es, h => by
    rw [decodeEntries] at h
    cases h
    nofun
  | 0, _, _, _ :: _, es, h => by cases h
  | fuel + 1, limit, next, b :: bytes, es, h => by
    simp only [decodeEntries] at h
    split at h
    · cases h
    next e rest he =>
    split at h
    · obtain ⟨es', hes', rfl⟩ := Option.map_eq_some_iff.1 h
      exact List.forall_mem_cons.2 ⟨decodeEntry_sound he, decodeEntries_sound hes'⟩
    · cases h

/-- A payload that decodes to a SNAPDATA is one whose entries decode. -/
theorem decodeBody_snapdata {limit code : Nat} {payload : List Byte} {j : Station} {start : Byte} {es : List SnapEntry}
    (h : decodeBody limit code payload = some (.snapdata j start es)) :
    ∃ fuel next bytes, decodeEntries fuel limit next bytes = some es := by
  match code, payload, h with
  | 8, _ :: next :: rest, h =>
    change (if _ then (decodeEntries rest.length limit next.toNat rest).map _ else none) = _ at h
    split at h
    · obtain ⟨es', hes', heq⟩ := Option.map_eq_some_iff.1 h
      cases heq
      exact ⟨_, _, _, hes'⟩
    · cases h
  | 5, [_, _], h | 6, [_, _], h | 9, [_, _], h | 10, [_, _], h | 11, [_, _], h =>
    change (if _ then _ else none) = _ at h
    split at h <;> cases h
  | 7, p, h =>
    obtain ⟨_, -, heq⟩ := Option.map_eq_some_iff.1 h
    cases heq
  | 0, _, h | 1, [], h | 1, _ :: _, h | 4, [], h | 4, _ :: _, h | _ + 12, _, h
  | 2, [], h | 2, [_], h | 2, [_, _], h | 2, [_, _, _], h | 2, [_, _, _, _], h | 2, _ :: _ :: _ :: _ :: _ :: _, h
  | 3, [], h | 3, [_], h | 3, [_, _], h | 3, [_, _, _], h | 3, [_, _, _, _], h | 3, _ :: _ :: _ :: _ :: _ :: _, h
  | 5, [], h | 5, [_], h | 5, _ :: _ :: _ :: _, h | 6, [], h | 6, [_], h | 6, _ :: _ :: _ :: _, h
  | 8, [], h | 8, [_], h | 9, [], h | 9, [_], h | 9, _ :: _ :: _ :: _, h
  | 10, [], h | 10, [_], h | 10, _ :: _ :: _ :: _, h | 11, [], h | 11, [_], h | 11, _ :: _ :: _ :: _, h => cases h

theorem receiveFrame_entriesSound {limit : Nat} {levels : List Level} {f : Frame}
    (h : receiveFrame limit levels = some f) : EntriesSound f := by
  obtain ⟨bytes, -, hf⟩ := Option.bind_eq_some_iff.1 h
  unfold decodeFrame at hf
  split at hf
  · split at hf
    · obtain ⟨body, hbody, rfl⟩ := Option.map_eq_some_iff.1 hf
      cases body with
      | snapdata j start es =>
        obtain ⟨fuel, next, bytes, hes⟩ := decodeBody_snapdata hbody
        exact decodeEntries_sound hes
      | _ => trivial
    · cases hf
  · cases hf

end Sys2Proof.Machine
end

