-- ==== Sys2Proof/Proofs/LockTable/StaysSound.lean ====
section
/-! PROOFS. Every command keeps the lock table and the frames kept sound (01 R1 to R3). -/
namespace Sys2Proof.Machine
open Sys2Proof.Safety

/-! ### What the member table's operations leave of the locks (02) -/

namespace Replica
variable (r : Replica) (s : Station)

@[simp] theorem setRecord_locks (m : MemberRecord) : (r.setRecord s m).locks = r.locks := rfl
@[simp] theorem setState_locks (st : RecordState) : (r.setState s st).locks = r.locks := rfl
@[simp] theorem makeAbsent_locks : (r.makeAbsent s).locks = r.locks := rfl

@[simp] theorem countFrame_locks : (r.countFrame s).locks = r.locks := by
  unfold countFrame
  split <;> rfl

@[simp] theorem refuse_locks : (r.refuse s).locks = r.locks := by
  unfold refuse
  split <;> rfl

@[simp] theorem setHeadSent_locks : (r.setHeadSent s).locks = r.locks := by
  unfold setHeadSent
  split <;> rfl

@[simp] theorem advance_locks (cursor : Nat) : (r.advance s cursor).locks = r.locks := by
  unfold advance
  split <;> rfl

@[simp] theorem joinFromAbsent_locks (offered held : Digest) : (r.joinFromAbsent s offered held).locks = r.locks := by
  unfold joinFromAbsent
  split <;> rfl

end Replica

/-! ### Effects (04 R78) -/

/-- What passes the screen has the effect of its kind or none on the replica. -/
theorem State.screened_cases {s : State} {f : Frame} {own : List JoinHandOver} {effect : Replica → Applied}
    {a : Applied} (h : s.screened f own effect = some a) : a.replica = s.replica ∨ a = effect s.replica := by
  unfold State.screened at h
  split at h
  · split at h <;> cases h
    exact .inr rfl
  · split at h <;> cases h
    exact .inl rfl

theorem State.screenedDonor_cases {s : State} {f : Frame} {effect : Replica → Applied} {a : Applied}
    (h : s.screenedDonor f effect = some a) : a.replica = s.replica ∨ a = effect s.replica := by
  unfold State.screenedDonor at h
  split at h <;> cases h
  · exact .inr rfl
  · exact .inl rfl

section
variable {n : Nat} {r : Replica} {s : State} {f : Frame} {a : Applied}

theorem TableSound.joinRequest (h : TableSound n r.locks) (v : Station) (offered held : Digest) :
    TableSound n (r.joinRequest v offered held).1.locks := by
  unfold Replica.joinRequest
  split
  · rwa [Replica.joinFromAbsent_locks]
  · exact h
  · exact h
  · rw [Replica.joinFromAbsent_locks]
    exact h.expel v

theorem TableSound.joinAt (h : TableSound n r.locks) (self v : Station) (offered held : Digest) :
    TableSound n (r.joinAt self v offered held).1.locks := by
  simp only [Replica.joinAt]
  split
  · exact (h.joinRequest v offered held).forgetLocks
  · exact h.joinRequest v offered held

theorem TableSound.screened {own : List JoinHandOver} {effect : Replica → Applied} (h : TableSound n s.replica.locks)
    (he : TableSound n (effect s.replica).replica.locks) (ha : s.screened f own effect = some a) :
    TableSound n a.replica.locks := by
  obtain heq | rfl := State.screened_cases ha
  · rwa [heq]
  · exact he

theorem TableSound.screenedDonor {effect : Replica → Applied} (h : TableSound n s.replica.locks)
    (he : TableSound n (effect s.replica).replica.locks) (ha : s.screenedDonor f effect = some a) :
    TableSound n a.replica.locks := by
  obtain heq | rfl := State.screenedDonor_cases ha
  · rwa [heq]
  · exact he

theorem TableSound.leaveEffect (h : TableSound n s.replica.locks) (ha : s.leaveEffect f = some a) :
    TableSound n a.replica.locks := by
  simp only [State.leaveEffect] at ha
  exact h.screened (h.expel f.sender) ha

theorem TableSound.evictEffect {v : Station} {c : Byte} (h : TableSound n s.replica.locks)
    (ha : s.evictEffect f v c = some a) : TableSound n a.replica.locks := by
  refine h.screened ?_ ha
  simp only
  split
  · exact h.expel v
  · exact h

theorem TableSound.joinEffect {d : Digest} (h : TableSound n s.replica.locks) (ha : s.joinEffect f d = some a) :
    TableSound n a.replica.locks := by
  unfold State.joinEffect at ha
  cases hfab : s.replica.fabric <;> simp only [hfab] at ha
  case some => cases ha; exact h.joinAt _ _ _ _
  case none =>
    split at ha <;> cases ha
    exact h

/-- A FOUND creates a table of L FREE entries, acts as a JOIN, or leaves the table alone. -/
theorem TableSound.foundEffect {d : Digest} (h : TableSound (lockSpace s.straps) s.replica.locks)
    (ha : s.foundEffect f d = some a) : TableSound (lockSpace s.straps) a.replica.locks := by
  unfold State.foundEffect at ha
  cases hfab : s.replica.fabric <;> simp only [hfab] at ha
  case some => cases ha; exact h.joinAt _ _ _ _
  case none =>
    by_cases hc : s.creates f = true
    · rw [if_pos hc] at ha
      cases ha
      exact TableSound.replicate _ entrySound_free
    · rw [if_neg hc] at ha
      cases ha
      exact h

theorem TableSound.refuseEffect {j : Station} {reason : RefusalReason} (h : TableSound n s.replica.locks)
    (ha : s.refuseEffect f j reason = some a) : TableSound n a.replica.locks := by
  unfold State.refuseEffect at ha
  split at ha
  · exact h.screenedDonor (by simpa only [Applied.plain, Replica.refuse_locks] using h) ha
  · split_ifs at ha <;> cases ha <;> exact h

theorem TableSound.takeOwnHead (h : TableSound n s.replica.locks) (f : Frame) (head : SnapHead) :
    TableSound n (s.takeOwnHead f head).replica.locks := by
  simp only [State.takeOwnHead, Applied.plain, Replica.setHeadSent_locks]
  exact h.forgetLocks

theorem TableSound.snapheadEffect {head : SnapHead} (h : TableSound n s.replica.locks)
    (ha : s.snapheadEffect f head = some a) : TableSound n a.replica.locks := by
  unfold State.snapheadEffect at ha
  split at ha
  · refine h.screenedDonor ?_ ha
    split
    · split
      · exact h.takeOwnHead f head
      · simpa only [Applied.plain, Replica.setHeadSent_locks] using h
    · exact h
  · split_ifs at ha <;> cases ha
    · exact h
    · exact h.takeOwnHead f head

theorem TableSound.snapdataEffect {j : Station} {start : Byte} {es : List SnapEntry} (h : TableSound n s.replica.locks)
    (hes : ∀ e ∈ es, EntrySound e.entry) (ha : s.snapdataEffect f j start es = some a) :
    TableSound n a.replica.locks := by
  unfold State.snapdataEffect at ha
  split at ha
  · refine h.screenedDonor ?_ ha
    split
    · simp only [State.takeData, Applied.plain, Replica.advance_locks]
      split
      · exact h.installEntries es hes
      · exact h
    · exact h
  · split at ha <;> cases ha
    exact h

/-- The effect of a frame with sound entries leaves a sound table. -/
theorem TableSound.effectOf (h : TableSound (lockSpace s.straps) s.replica.locks) (hf : EntriesSound f)
    (ha : s.effectOf f = some a) : TableSound (lockSpace s.straps) a.replica.locks := by
  unfold EntriesSound at hf
  unfold State.effectOf at ha
  cases hb : f.body <;> rw [hb] at hf ha
  case alive => exact h.screened h ha
  case join d => exact h.joinEffect ha
  case found d => exact h.foundEffect ha
  case leave => exact h.leaveEffect ha
  case evict v c => exact h.evictEffect ha
  case refuse j reason => exact h.refuseEffect ha
  case snaphead head => exact h.snapheadEffect ha
  case snapdata j start es => exact h.snapdataEffect hf ha
  case claim o l m w => exact h.screened (h.claim _ _ _ _ _) ha
  case free o l => exact h.screened (h.free _ _) ha
  case withdraw o l => exact h.screened (h.withdraw _ _) ha

end

/-! ### Frames sent (05 R93) -/

theorem entry_mem_of_mem_fillEntries {e : SnapEntry} : ∀ {n room : Nat} {locks : List LockEntry},
    e ∈ fillEntries n room locks → e.entry ∈ locks
  | _, _, [], h => by cases h
  | n, room, l :: locks, h => by
    simp only [fillEntries] at h
    split at h
    · rcases List.mem_cons.1 h with rfl | h
      · exact List.mem_cons_self
      · exact List.mem_cons_of_mem _ (entry_mem_of_mem_fillEntries h)
    · cases h

/-- A SNAPDATA that a donor item goes out as carries entries of the replica. -/
theorem Replica.donorBody_snapdata {r : Replica} {j : Station} {start : Byte} {es : List SnapEntry}
    (h : r.donorBody = .snapdata j start es) : ∀ e ∈ es, e.entry ∈ r.locks := by
  unfold Replica.donorBody at h
  split at h
  · split at h <;> cases h
    exact fun e he => List.mem_of_mem_drop (entry_mem_of_mem_fillEntries he)
  · cases h

/-- No other item goes out as a SNAPDATA. -/
theorem State.bodyOf_snapdata {s : State} {id : ItemId} {j : Station} {start : Byte} {es : List SnapEntry}
    (h : s.bodyOf id = .snapdata j start es) : s.replica.donorBody = .snapdata j start es := by
  cases id with
  | control p =>
    simp only [State.bodyOf] at h
    cases hi : s.sched.controlItem p with
    | none => rw [hi] at h; cases h
    | some i =>
      rw [hi] at h
      cases i with
      | donor => exact h
      | membership k => cases k <;> cases h
      | alive | evict => cases h
  | lock k o l =>
    simp only [State.bodyOf] at h
    cases hi : s.sched.lockItem (.lock k o l) with
    | none => rw [hi] at h; cases h
    | some i => rw [hi] at h; cases i <;> cases h

theorem State.fillFrame_entriesSound {s : State} {b : FrameBody} (h : ∀ e ∈ s.replica.locks, EntrySound e)
    (hb : b = .alive ∨ ∃ id, b = s.bodyOf id) : EntriesSound (s.fillFrame b) := by
  rcases hb with rfl | ⟨id, hid⟩
  · trivial
  · cases b with
    | snapdata j start es =>
      exact fun e he => h _ (Replica.donorBody_snapdata (State.bodyOf_snapdata hid.symm) e he)
    | _ => trivial

/-! ### Every command -/

/-- A property of frames holds of every frame kept. -/
def Kept.OfEvery (p : Frame → Prop) (k : Kept) : Prop :=
  (∀ f ∈ k.queue, p f) ∧ (∀ f, k.sent = some f → p f) ∧ (∀ f, k.copy = some f → p f)

theorem ofEveryFrame_iff_kept (p : Frame → Prop) (s : State) : OfEveryFrame p s ↔ s.kept.OfEvery p := Iff.rfl

/-- The queue after an acceptance: each frame stood in it or was on the line. -/
theorem Intake.mem_accept_queue {i : Intake} {part : Bool} {frame : Option Frame} {f : Frame}
    (h : f ∈ (i.accept part frame).queue) : f ∈ i.queue ∨ frame = some f := by
  simp only [Intake.accept] at h
  split at h
  · exact (List.mem_append.1 h).imp_right fun h => by simpa using h
  · exact .inl h

theorem Pli.frame_eq_some {p : Pli} {f : Frame} (h : p.frame = some f) : p.sent = some f ∨ p.copy = some f := by
  unfold Pli.frame at h
  cases hs : p.sent with
  | none => exact .inr (by simpa [hs] using h)
  | some g => exact .inl (by simpa [hs] using h)

namespace KeptStep
variable {s : State} {k : Kept}

/-- A property of every frame kept stays where the frames sent and received have it. -/
theorem ofEvery {p : Frame → Prop} (h : KeptStep s k) (hs : OfEveryFrame p s)
    (hsends : ∀ b, (b = .alive ∨ ∃ id, b = s.bodyOf id) → p (s.fillFrame b))
    (hreceives : ∀ levels f, receiveFrame s.replica.lockLimit levels = some f → p f) : k.OfEvery p := by
  obtain ⟨hqueue, hsent, hcopy⟩ := hs
  cases h with
  | same => exact ⟨hqueue, hsent, hcopy⟩
  | restarted => exact ⟨nofun, nofun, nofun⟩
  | forgotten queue hsub => exact ⟨fun f hf => hqueue f (hsub hf), hsent, hcopy⟩
  | lineCleared => exact ⟨hqueue, nofun, nofun⟩
  | sends b hb => exact ⟨hqueue, fun f hf => Option.some.inj hf ▸ hsends b hb, nofun⟩
  | receives levels => exact ⟨hqueue, hsent, hreceives levels⟩
  | accepts =>
    refine ⟨fun f hf => ?_, nofun, nofun⟩
    rcases Intake.mem_accept_queue hf with hf | hf
    · exact hqueue f hf
    · exact (Pli.frame_eq_some hf).elim (hsent f) (hcopy f)
  | applies f rest a hq => exact ⟨fun g hg => hqueue g (hq ▸ List.mem_cons_of_mem f hg), hsent, hcopy⟩
  | discards f rest hq => exact ⟨fun g hg => hqueue g (hq ▸ List.mem_cons_of_mem f hg), hsent, hcopy⟩

theorem tableSound (h : KeptStep s k) (hs : LockTableSound s) : TableSound (lockSpace k.straps) k.replica.locks := by
  obtain ⟨hlen, hsound, hframes⟩ := hs
  have hempty (p : Straps) : TableSound (lockSpace p) (emptyReplica p).locks :=
    TableSound.replicate _ entrySound_unknown
  cases h with
  | same | lineCleared | sends | receives | accepts | discards => exact ⟨hlen, hsound⟩
  | restarted p => exact hempty p
  | forgotten => exact hempty s.straps
  | applies f rest a hq ha =>
    have hf : EntriesSound f := hframes.1 f (hq ▸ List.mem_cons_self)
    have htable := TableSound.effectOf (s := popped s rest) ⟨hlen, hsound⟩ hf ha
    exact (Replica.countFrame_locks a.replica f.sender).symm ▸ htable

end KeptStep

/-- Every command keeps the lock table sound. -/
theorem exec_lockTableSound {s t : State} (i : Instr) (ht : exec i s = .next t) (hs : LockTableSound s) :
    LockTableSound t := by
  have hstep := exec_keptStep i ht
  obtain ⟨hlen, hsound⟩ := hstep.tableSound hs
  refine ⟨hlen, hsound, (ofEveryFrame_iff_kept _ _).2 (hstep.ofEvery hs.2.2 (fun b hb => ?_) fun levels f hf => ?_)⟩
  · exact State.fillFrame_entriesSound hs.2.1 hb
  · exact receiveFrame_entriesSound hf

end Sys2Proof.Machine

namespace Sys2Proof.LockTable
open Sys2Proof.Machine Sys2Proof.Safety

/-- Settles O56: what one command can do to the replica and the frames kept, case by case. -/
theorem lockTableStaysSound : Obligations.LockTableStaysSound := by
  intro s t ht hs
  unfold step at ht
  split at ht
  · cases ht
    exact hs
  · exact exec_lockTableSound _ ht hs

end Sys2Proof.LockTable
end


section
/-! PROOFS. The operations of a replica (02): what each makes of the member table and of the join list, and that with a
fabric record held they go on agreeing (02 R32). -/
namespace Sys2Proof.Machine
open Sys2Proof.Safety

/-! ### The join list and the records agree (02 R32) -/

theorem getElem_set_station {α : Type} (xs : Vector α 16) (j v : Station) (a : α) :
    (xs.set j.val a)[v] = if v = j then a else xs[v] := by
  simp only [Fin.getElem_fin, Vector.getElem_set, Fin.ext_iff, eq_comm]

end Sys2Proof.Machine

namespace Sys2Proof.Safety.JoinListSound
open Sys2Proof.Machine

variable {members : Vector MemberRecord 16} {l : List Station}

theorem of_listed_eq {members' : Vector MemberRecord 16} (h : JoinListSound members l)
    (he : ∀ v : Station, members'[v].state.listed = members[v].state.listed) : JoinListSound members' l := by
  obtain ⟨hlen, hnodup, hmem⟩ := h
  exact ⟨hlen, hnodup, fun v => by rw [he v, hmem v]⟩

/-- A record changes, and its station stands on the list as before. -/
theorem set_listed (h : JoinListSound members l) {j : Station} {m : MemberRecord}
    (hm : m.state.listed = members[j].state.listed) : JoinListSound (members.set j.val m) l := by
  refine h.of_listed_eq fun v => ?_
  rw [getElem_set_station]
  split
  · next hv => rw [hv, hm]
  · rfl

/-- A station leaves the list, its record ABSENT or MEMBER. -/
theorem leave (h : JoinListSound members l) (j : Station) {m : MemberRecord} (hm : m.state.listed = false) :
    JoinListSound (members.set j.val m) (l.filter fun t => !decide (t = j)) := by
  obtain ⟨hlen, hnodup, hmem⟩ := h
  refine ⟨(List.length_filter_le _ l).trans hlen, hnodup.filter _, fun v => ?_⟩
  rw [List.mem_filter, getElem_set_station, hmem v]
  by_cases hv : v = j <;> simp [hv, hm]

/-- A station joins the list at its tail, its record JOINING or REFUSE_DUE. -/
theorem join (h : JoinListSound members l) {j : Station} {m : MemberRecord} (hj : members[j].state.listed = false)
    (hm : m.state.listed = true) (hroom : l.length < 15) : JoinListSound (members.set j.val m) (l ++ [j]) := by
  obtain ⟨-, hnodup, hmem⟩ := h
  have hnew : j ∉ l := fun hl => Bool.false_ne_true (hj.symm.trans ((hmem j).1 hl))
  refine ⟨by simpa using hroom, ?_, fun v => ?_⟩
  · exact (List.perm_append_singleton j l).symm.nodup (List.nodup_cons.2 ⟨hnew, hnodup⟩)
  · rw [List.mem_append, List.mem_singleton, getElem_set_station, hmem v]
    by_cases hv : v = j <;> simp [hv, hm]

/-- No one is on the list where every record is unlisted. -/
theorem nil (h : ∀ v : Station, members[v].state.listed = false) : JoinListSound members [] :=
  ⟨Nat.zero_le _, .nil, fun v => by rw [h v]; simp⟩

end Sys2Proof.Safety.JoinListSound

namespace Sys2Proof.Machine
open Sys2Proof.Safety

@[simp] theorem RecordState.listed_rewound (k : Nat) (st : RecordState) : (st.rewound k).listed = st.listed := by
  cases st with
  | joining headSent c => cases headSent <;> rfl
  | absent | refuseDue | member => rfl

theorem listed_joinedState (offered held : Digest) : (joinedState offered held).listed = true := by
  unfold joinedState
  split <;> rfl

/-! ### What the operations on the lock table leave of the members (01) -/

namespace Replica
variable (r : Replica)

theorem free_locks_only (c : Claimant) (l : Byte) :
    (r.free c l).1 = { r with locks := (r.free c l).1.locks } := by
  simp only [free]
  split_ifs <;> rfl

theorem withdraw_locks_only (c : Claimant) (l : Byte) :
    (r.withdraw c l).1 = { r with locks := (r.withdraw c l).1.locks } := by
  simp only [withdraw]
  split_ifs <;> rfl

theorem installEntries_eq (es : List SnapEntry) :
    r.installEntries es = { r with locks := es.foldl (fun ls e => ls.set e.lock.toNat e.entry) r.locks } := by
  induction es generalizing r with
  | nil => rfl
  | cons e es ih => exact ih (r.setEntry e.lock e.entry)

/-- The pool test changes the lock table alone. -/
theorem poolTest_locks_only (c : Claimant) (l : Byte) (m : Mode) :
    (r.poolTest c l m).1 = { r with locks := (r.poolTest c l m).1.locks } := by
  simp only [poolTest]
  split_ifs <;> rfl

/-- A CLAIM changes the lock table alone, or does so after the rewind. -/
theorem claim_locks_only (self : Station) (c : Claimant) (l : Byte) (m : Mode) (w : Bool) :
    ∃ r', (r' = r ∨ r' = r.rewind self l.toNat)
      ∧ (r.claim self c l m w).1 = { r' with locks := (r.claim self c l m w).1.locks } := by
  simp only [claim]
  split_ifs
  · exact ⟨r, .inl rfl, rfl⟩
  · exact ⟨r, .inl rfl, rfl⟩
  · exact ⟨r, .inl rfl, rfl⟩
  · exact ⟨r, .inl rfl, rfl⟩
  · exact ⟨r, .inl rfl, rfl⟩
  · exact ⟨_, .inr rfl, rfl⟩
  · exact ⟨_, .inr rfl, poolTest_locks_only _ c l m⟩

/-! ### A JOIN, or a FOUND that acts as one (02 R35, R38 to R40) -/

variable {r} {j : Station} {offered held : Digest}

theorem joinFromAbsent_room (h : r.joinList.length < 15) :
    r.joinFromAbsent j offered held =
      { r with
        members := r.members.set j.val { r.members[j] with state := joinedState offered held }
        joinList := r.joinList ++ [j] } :=
  if_neg (Nat.not_le.2 h)

theorem joinFromAbsent_full (h : 15 ≤ r.joinList.length) : r.joinFromAbsent j offered held = r := if_pos h

theorem joinRequest_absent (h : (r.record j).state = .absent) :
    r.joinRequest j offered held = (r.joinFromAbsent j offered held, []) := by
  rw [joinRequest, h]

theorem joinRequest_listed (h : (r.record j).state.listed = true) :
    r.joinRequest j offered held =
      ({ r with members := r.members.set j.val { r.members[j] with state := joinedState offered held } }, []) := by
  unfold joinRequest
  cases hst : (r.record j).state with
  | joining | refuseDue => rfl
  | absent | member =>
    rw [hst] at h
    cases h

theorem joinRequest_member (h : (r.record j).state = .member) :
    r.joinRequest j offered held = ((r.expel j).1.joinFromAbsent j offered held, (r.expel j).2) := by
  rw [joinRequest, h]

end Replica

/-! ### A replica of a fabric -/

/-- The replica holds a fabric record, and its join list agrees with its records. -/
structure HeldSound (r : Replica) : Prop where
  held : r.fabric ≠ none
  list : JoinListSound r.members r.joinList

namespace HeldSound
variable {r : Replica} (h : HeldSound r)
include h

theorem withLocks (locks : List LockEntry) : HeldSound { r with locks := locks } := ⟨h.held, h.list⟩

theorem countFrame (v : Station) : HeldSound (r.countFrame v) := by
  unfold Replica.countFrame
  split
  · exact h
  · exact ⟨h.held, h.list.set_listed rfl⟩

/-- A record takes a state with the same place on the join list. -/
theorem setState {j : Station} {st : RecordState} (hst : st.listed = (r.record j).state.listed) :
    HeldSound (r.setState j st) :=
  ⟨h.held, h.list.set_listed hst⟩

theorem makeAbsent (v : Station) : HeldSound (r.makeAbsent v) := ⟨h.held, h.list.leave v rfl⟩

theorem expel (v : Station) : HeldSound (r.expel v).1 := (h.withLocks _).makeAbsent v

theorem refuse (j : Station) : HeldSound (r.refuse j) := by
  unfold Replica.refuse
  split
  · exact h.makeAbsent j
  · exact h

theorem setHeadSent (j : Station) : HeldSound (r.setHeadSent j) := by
  unfold Replica.setHeadSent
  split
  · next hst => exact h.setState (by rw [hst]; rfl)
  · exact h

theorem advance {j : Station} {b : Bool} {c : Nat} (hj : (r.record j).state = .joining b c) (cursor : Nat) :
    HeldSound (r.advance j cursor) := by
  unfold Replica.advance
  split
  · exact ⟨h.held, h.list.leave j rfl⟩
  · exact h.setState (by rw [hj]; rfl)

theorem joinFromAbsent {j : Station} (hj : (r.record j).state = .absent) (offered held : Digest) :
    HeldSound (r.joinFromAbsent j offered held) := by
  by_cases hroom : r.joinList.length < 15
  · rw [Replica.joinFromAbsent_room hroom]
    have hunlisted : (r.record j).state.listed = false := by rw [hj]; rfl
    exact ⟨h.held, h.list.join hunlisted (listed_joinedState offered held) hroom⟩
  · rwa [Replica.joinFromAbsent_full (Nat.not_lt.1 hroom)]

theorem joinRequest (j : Station) (offered held : Digest) : HeldSound (r.joinRequest j offered held).1 := by
  have hlisted (hj : (r.record j).state.listed = true) : HeldSound (r.joinRequest j offered held).1 := by
    rw [Replica.joinRequest_listed hj]
    exact h.setState ((listed_joinedState offered held).trans hj.symm)
  cases hst : (r.record j).state with
  | absent =>
    rw [Replica.joinRequest_absent hst]
    exact h.joinFromAbsent hst offered held
  | joining | refuseDue => exact hlisted (by rw [hst]; rfl)
  | member =>
    rw [Replica.joinRequest_member hst]
    refine (h.expel j).joinFromAbsent ?_ offered held
    have hrecord : (r.expel j).1.record j = absentRecord := (getElem_set_station _ j j _).trans (if_pos rfl)
    rw [hrecord]
    rfl

theorem joinAt (self j : Station) (offered held : Digest) : HeldSound (r.joinAt self j offered held).1 := by
  simp only [Replica.joinAt]
  split
  · exact (h.joinRequest j offered held).withLocks _
  · exact h.joinRequest j offered held

theorem rewind (self : Station) (k : Nat) : HeldSound (r.rewind self k) := by
  refine ⟨(Replica.rewind_fabric self k r).symm ▸ h.held, ?_⟩
  rw [Replica.rewind_joinList]
  refine h.list.of_listed_eq fun v => ?_
  rw [Replica.rewind_members, RecordState.listed_rewound]

theorem claim (self : Station) (c : Claimant) (l : Byte) (m : Mode) (w : Bool) :
    HeldSound (r.claim self c l m w).1 := by
  obtain ⟨r', hr', heq⟩ := r.claim_locks_only self c l m w
  rw [heq]
  rcases hr' with rfl | rfl
  · exact h.withLocks _
  · exact (h.rewind self l.toNat).withLocks _

theorem free (c : Claimant) (l : Byte) : HeldSound (r.free c l).1 := r.free_locks_only c l ▸ h.withLocks _

theorem withdraw (c : Claimant) (l : Byte) : HeldSound (r.withdraw c l).1 := r.withdraw_locks_only c l ▸ h.withLocks _

theorem installEntries (es : List SnapEntry) : HeldSound (r.installEntries es) :=
  r.installEntries_eq es ▸ h.withLocks _

end HeldSound

/-- The content of a sound head is installed. -/
theorem HeldSound.installHead (r : Replica) {head : SnapHead} (h : JoinListSound head.members head.joinList) :
    HeldSound (r.installHead head) :=
  ⟨nofun, h⟩

theorem HeldSound.founded (self : Station) (digest : Digest) (locks : Nat) :
    HeldSound (foundedReplica self digest locks) := by
  refine ⟨nofun, .nil fun v => ?_⟩
  simp only [foundedReplica, Fin.getElem_fin, Vector.getElem_ofFn]
  split <;> rfl

end Sys2Proof.Machine
end


section
/-! PROOFS. Every command keeps the join list and the records in agreement (02 R32, R49): effects of frames, heads
received, heads sent. -/
namespace Sys2Proof.Machine
open Sys2Proof.Safety

/-! ### Effects (04 R78) -/

theorem HeldSound.takeOwnHead (s : State) (f : Frame) {head : SnapHead}
    (h : JoinListSound head.members head.joinList) : HeldSound (s.takeOwnHead f head).replica :=
  (HeldSound.installHead s.replica h).setHeadSent head.joiner

/-- An effect leaves the replica alone, or leaves one of a fabric whose join list and records agree. -/
def Applied.KeepsMembers (a : Applied) (r : Replica) : Prop := a.replica = r ∨ HeldSound a.replica

namespace Applied.KeepsMembers
variable {s : State} {f : Frame} {a : Applied} (hlist : JoinListSound s.replica.members s.replica.joinList)
include hlist

theorem screened {own : List JoinHandOver} {effect : Replica → Applied}
    (he : HeldSound s.replica → HeldSound (effect s.replica).replica) (ha : s.screened f own effect = some a) :
    a.KeepsMembers s.replica := by
  unfold State.screened at ha
  split at ha
  · next hfab =>
    split at ha <;> cases ha
    exact .inr (he ⟨Option.isSome_iff_ne_none.1 hfab, hlist⟩)
  · split at ha <;> cases ha
    exact .inl rfl

theorem screenedDonor {effect : Replica → Applied} (hfab : s.replica.fabric.isSome = true)
    (he : HeldSound s.replica → HeldSound (effect s.replica).replica) (ha : s.screenedDonor f effect = some a) :
    a.KeepsMembers s.replica := by
  obtain heq | rfl := State.screenedDonor_cases ha
  · exact .inl heq
  · exact .inr (he ⟨Option.isSome_iff_ne_none.1 hfab, hlist⟩)

theorem leaveEffect (ha : s.leaveEffect f = some a) : a.KeepsMembers s.replica := by
  simp only [State.leaveEffect] at ha
  exact screened hlist (fun h => h.expel f.sender) ha

theorem evictEffect {v : Station} {c : Byte} (ha : s.evictEffect f v c = some a) : a.KeepsMembers s.replica := by
  refine screened hlist (fun h => ?_) ha
  simp only
  split
  · exact h.expel v
  · exact h

theorem joinedBy {held : Digest} (hfab : s.replica.fabric ≠ none) (offered : Digest) (hand : List JoinHandOver) :
    (s.joinedBy f held offered hand).KeepsMembers s.replica :=
  .inr (HeldSound.joinAt ⟨hfab, hlist⟩ _ _ _ _)

theorem joinEffect {d : Digest} (ha : s.joinEffect f d = some a) : a.KeepsMembers s.replica := by
  unfold State.joinEffect at ha
  cases hfab : s.replica.fabric <;> simp only [hfab] at ha
  case some fr =>
    cases ha
    exact joinedBy hlist (by rw [hfab]; nofun) d _
  case none =>
    split at ha <;> cases ha
    exact .inl rfl

theorem foundEffect {d : Digest} (ha : s.foundEffect f d = some a) : a.KeepsMembers s.replica := by
  unfold State.foundEffect at ha
  cases hfab : s.replica.fabric <;> simp only [hfab] at ha
  case some fr =>
    cases ha
    exact joinedBy hlist (by rw [hfab]; nofun) d _
  case none =>
    by_cases hc : s.creates f = true
    · rw [if_pos hc] at ha
      cases ha
      exact .inr (HeldSound.founded _ _ _)
    · rw [if_neg hc] at ha
      cases ha
      exact .inl rfl

theorem refuseEffect {j : Station} {reason : RefusalReason} (ha : s.refuseEffect f j reason = some a) :
    a.KeepsMembers s.replica := by
  unfold State.refuseEffect at ha
  split at ha
  · next hfab => exact screenedDonor hlist hfab (fun h => h.refuse j) ha
  · split_ifs at ha <;> cases ha <;> exact .inl rfl

theorem snapheadEffect {head : SnapHead} (hhead : JoinListSound head.members head.joinList)
    (ha : s.snapheadEffect f head = some a) : a.KeepsMembers s.replica := by
  unfold State.snapheadEffect at ha
  split at ha
  · next hfab =>
    refine screenedDonor hlist hfab (fun h => ?_) ha
    split
    · split
      · exact .takeOwnHead s f hhead
      · exact h.setHeadSent head.joiner
    · exact h
  · split_ifs at ha <;> cases ha
    · exact .inl rfl
    · exact .inr (.takeOwnHead s f hhead)

theorem snapdataEffect {j : Station} {start : Byte} {es : List SnapEntry}
    (ha : s.snapdataEffect f j start es = some a) : a.KeepsMembers s.replica := by
  unfold State.snapdataEffect at ha
  split at ha
  · next hfab =>
    refine screenedDonor hlist hfab (fun h => ?_) ha
    split
    · next htaken =>
      obtain ⟨-, hj⟩ := (s.replica.dataTaken_iff j start.toNat).1 htaken
      simp only [State.takeData, Applied.plain]
      split
      · refine (h.installEntries es).advance (j := j) (b := true) (c := start.toNat) ?_ _
        rw [Replica.installEntries_eq]
        exact hj
      · exact h.advance hj _
    · exact h
  · split at ha <;> cases ha
    exact .inl rfl

/-- The effect of a frame that carries no head, or a sound one. -/
theorem effectOf (hf : HeadSound f) (ha : s.effectOf f = some a) : a.KeepsMembers s.replica := by
  unfold HeadSound at hf
  unfold State.effectOf at ha
  cases hb : f.body <;> rw [hb] at hf ha
  case alive => exact screened hlist id ha
  case join d => exact joinEffect hlist ha
  case found d => exact foundEffect hlist ha
  case leave => exact leaveEffect hlist ha
  case evict v c => exact evictEffect hlist ha
  case refuse j reason => exact refuseEffect hlist ha
  case snaphead head => exact snapheadEffect hlist hf ha
  case snapdata j start es => exact snapdataEffect hlist ha
  case claim o l m w => exact screened hlist (fun h => h.claim _ _ _ _ _) ha
  case free o l => exact screened hlist (fun h => h.free _ _) ha
  case withdraw o l => exact screened hlist (fun h => h.withdraw _ _) ha

end Applied.KeepsMembers

/-! ### The replica -/

/-- The join list and the records agree, and every record is ABSENT with count 0 where no fabric record is held (02 R32,
R49). -/
structure MembersSound (r : Replica) : Prop where
  list : JoinListSound r.members r.joinList
  empty : r.fabric = none → ∀ v : Station, r.members[v] = absentRecord

theorem HeldSound.membersSound {r : Replica} (h : HeldSound r) : MembersSound r :=
  ⟨h.list, fun hnone => absurd hnone h.held⟩

theorem membersSound_empty (p : Straps) : MembersSound (emptyReplica p) := by
  have habsent (v : Station) : (emptyReplica p).members[v] = absentRecord := by
    simp only [emptyReplica, Fin.getElem_fin, Vector.getElem_replicate]
  exact ⟨.nil fun v => by rw [habsent v]; rfl, fun _ => habsent⟩

/-- Without a fabric record no frame is counted: every record is ABSENT. -/
theorem MembersSound.countFrame {r : Replica} (h : MembersSound r) (v : Station) : MembersSound (r.countFrame v) := by
  by_cases hfab : r.fabric = none
  · have habsent : (r.record v).state = .absent := congrArg MemberRecord.state (h.empty hfab v)
    rwa [Replica.countFrame, if_pos habsent]
  · exact (HeldSound.countFrame ⟨hfab, h.list⟩ v).membersSound

theorem MembersSound.applied {r : Replica} (h : MembersSound r) {a : Applied} (ha : a.KeepsMembers r) (v : Station) :
    MembersSound (a.replica.countFrame v) := by
  rcases ha with heq | hheld
  · rw [heq]
    exact h.countFrame v
  · exact (hheld.countFrame v).membersSound

/-! ### Heads received (05 R95) -/

theorem length_of_decodeItems : ∀ {bytes : List Byte} {items : List (Station × Nat)},
    decodeItems bytes = some items → 2 * items.length = bytes.length
  | [], items, h => by
    cases h
    rfl
  | [_], _, h => by cases h
  | a :: b :: rest, items, h => by
    rw [decodeItems] at h
    split at h
    · obtain ⟨items', hitems', rfl⟩ := Option.map_eq_some_iff.1 h
      have ih := length_of_decodeItems hitems'
      simp only [List.length_cons]
      omega
    · cases h

theorem decodeSnaphead_sound {payload : List Byte} {head : SnapHead} (h : decodeSnaphead payload = some head) :
    JoinListSound head.members head.joinList := by
  simp only [decodeSnaphead] at h
  split at h
  · cases h
  next items hitems =>
  split at h
  case isFalse => cases h
  next hform =>
  cases h
  obtain ⟨hroom, hlen, -, -, -, -, -, hnodup, hlisted, -⟩ := hform
  have hitems := length_of_decodeItems hitems
  refine ⟨?_, nodup_of_noRepeats hnodup, fun v => ?_⟩
  · rw [List.length_drop] at hitems
    rw [List.length_map]
    simp only [Config.joinListLimit] at hroom
    omega
  · have hv := List.all_eq_true.1 hlisted v (List.mem_finRange v)
    rw [beq_iff_eq] at hv
    rw [hv, List.contains_iff_mem]

/-- A payload decodes to a body of the kind whose code it stands under. -/
theorem decodeBody_kind {limit code : Nat} {payload : List Byte} {b : FrameBody}
    (h : decodeBody limit code payload = some b) : b.kind.code = code := by
  match code with
  | 0 | _ + 12 => cases h
  | 1 | 4 =>
    match payload with
    | [] => cases h; rfl
    | _ :: _ => cases h
  | 2 | 3 =>
    match payload with
    | [_, _, _, _] => cases h; rfl
    | [] | [_] | [_, _] | [_, _, _] | _ :: _ :: _ :: _ :: _ :: _ => cases h
  | 5 | 6 | 9 | 10 | 11 =>
    match payload with
    | [_, _] =>
      change (if _ then _ else none) = _ at h
      split at h <;> cases h
      rfl
    | [] | [_] | _ :: _ :: _ :: _ => cases h
  | 7 =>
    obtain ⟨_, -, rfl⟩ := Option.map_eq_some_iff.1 h
    rfl
  | 8 =>
    match payload with
    | _ :: _ :: _ =>
      change (if _ then _ else none) = _ at h
      split at h
      · obtain ⟨_, -, rfl⟩ := Option.map_eq_some_iff.1 h
        rfl
      · cases h
    | [] | [_] => cases h

/-- A payload that decodes to a SNAPHEAD is one whose content does. -/
theorem decodeBody_snaphead {limit code : Nat} {payload : List Byte} {head : SnapHead}
    (h : decodeBody limit code payload = some (.snaphead head)) : decodeSnaphead payload = some head := by
  obtain rfl : 7 = code := decodeBody_kind h
  obtain ⟨head', hhead', heq⟩ := Option.map_eq_some_iff.1 h
  cases heq
  exact hhead'

theorem receiveFrame_headSound {limit : Nat} {levels : List Level} {f : Frame}
    (h : receiveFrame limit levels = some f) : HeadSound f := by
  obtain ⟨bytes, -, hf⟩ := Option.bind_eq_some_iff.1 h
  unfold decodeFrame at hf
  split at hf
  · split at hf
    · obtain ⟨body, hbody, rfl⟩ := Option.map_eq_some_iff.1 hf
      cases body with
      | snaphead head => exact decodeSnaphead_sound (decodeBody_snaphead hbody)
      | _ => trivial
    · cases hf
  · cases hf

/-! ### Heads sent (05 R93) -/

/-- A SNAPHEAD that a donor item goes out as carries the records and the join list of the replica. -/
theorem Replica.donorBody_snaphead {r : Replica} {head : SnapHead} (h : r.donorBody = .snaphead head) :
    head.members = r.members ∧ head.joinList = r.joinList := by
  unfold Replica.donorBody at h
  split at h
  · split at h <;> cases h
    exact ⟨rfl, rfl⟩
  · cases h

/-- Of all items a donor item alone goes out as a SNAPHEAD. -/
theorem State.bodyOf_eq_donorBody {s : State} {id : ItemId} (h : (s.bodyOf id).kind = .snaphead) :
    s.bodyOf id = s.replica.donorBody := by
  cases id with
  | control p =>
    simp only [State.bodyOf] at h ⊢
    cases hi : s.sched.controlItem p with
    | none => rw [hi] at h; cases h
    | some i =>
      rw [hi] at h
      cases i with
      | donor => rfl
      | membership k => cases k <;> cases h
      | alive | evict => cases h
  | lock k o l =>
    simp only [State.bodyOf] at h
    cases hi : s.sched.lockItem (.lock k o l) with
    | none => rw [hi] at h; cases h
    | some i => rw [hi] at h; cases i <;> cases h

theorem State.fillFrame_headSound {s : State} {b : FrameBody}
    (h : JoinListSound s.replica.members s.replica.joinList) (hb : b = .alive ∨ ∃ id, b = s.bodyOf id) :
    HeadSound (s.fillFrame b) := by
  rcases hb with rfl | ⟨id, hid⟩
  · trivial
  · cases b with
    | snaphead head =>
      have hdonor := State.bodyOf_eq_donorBody (s := s) (id := id) (by rw [← hid]; rfl)
      obtain ⟨hmembers, hlist⟩ := Replica.donorBody_snaphead (hdonor.symm.trans hid.symm)
      show JoinListSound head.members head.joinList
      rwa [hmembers, hlist]
    | _ => trivial

/-! ### Every command -/

theorem KeptStep.membersSound {s : State} {k : Kept} (h : KeptStep s k) (hs : MembershipSound s) :
    MembersSound k.replica := by
  obtain ⟨hlist, hempty, hqueue, -, -⟩ := hs
  have hmembers : MembersSound s.replica := ⟨hlist, hempty⟩
  cases h with
  | same | lineCleared | sends | receives | accepts | discards => exact hmembers
  | restarted p => exact membersSound_empty p
  | forgotten => exact membersSound_empty s.straps
  | applies f rest a hq ha =>
    have hf : HeadSound f := hqueue f (hq ▸ List.mem_cons_self)
    exact hmembers.applied (Applied.KeepsMembers.effectOf (s := popped s rest) hlist hf ha) f.sender

/-- Every command keeps the member table and the join list in agreement. -/
theorem exec_membershipSound {s t : State} (i : Instr) (ht : exec i s = .next t) (hs : MembershipSound s) :
    MembershipSound t := by
  have hstep := exec_keptStep i ht
  obtain ⟨hlist, hempty⟩ := hstep.membersSound hs
  refine ⟨hlist, hempty, (ofEveryFrame_iff_kept _ _).2 (hstep.ofEvery hs.2.2 (fun b hb => ?_) fun levels f hf => ?_)⟩
  · exact State.fillFrame_headSound hs.1 hb
  · exact receiveFrame_headSound hf

end Sys2Proof.Machine

namespace Sys2Proof.Membership
open Sys2Proof.Machine Sys2Proof.Safety

/-- Settles O57: what one command can do to the replica and the frames kept, case by case. -/
theorem membershipStaysSound : Obligations.MembershipStaysSound := by
  intro s t ht hs
  unfold step at ht
  split at ht
  · cases ht
    exact hs
  · exact exec_membershipSound _ ht hs

end Sys2Proof.Membership
end


section
/-! PROOFS. Applications of membership frames and of donor frames (02): what each does at a fabric and without one. -/
namespace Sys2Proof.Machine
open Sys2Proof.Safety

/-! ### The command of each kind (04 R72, R78) -/

section
variable {s : State} {f : Frame} {rest : List Frame} {k : FrameKind}

/-- The apply command of the head frame's kind applies the frame's effect. -/
theorem applyCommand_applied {a : Applied} (h : Takes s f rest) (hk : f.body.kind = k)
    (he : (popped s rest).effectOf f = some a) :
    ∃ t, exec (applyCommand k) s = .next t
      ∧ AppliedAs s t f rest a.replica a.epoch
          (ownOutcome s.straps.station f.sender a.outcome ++ grantNotices s.straps.station a.grants) a.join := by
  subst hk
  unfold State.effectOf at he
  cases hb : f.body <;> rw [hb] at he
  case alive | leave => exact State.applyHead_applies h (by rw [hb]; rfl) he rfl
  all_goals exact State.applyHead_applies h (by rw [hb]; rfl) (by simp only [hb]; exact he) rfl

/-- The apply command of the head frame's kind discards a frame without an effect. -/
theorem applyCommand_discards (h : Takes s f rest) (hk : f.body.kind = k)
    (he : (popped s rest).effectOf f = none) : ∃ t, exec (applyCommand k) s = .next t ∧ Discarded s t rest := by
  subst hk
  unfold State.effectOf at he
  cases hb : f.body <;> rw [hb] at he
  case alive | leave => exact State.applyHead_discards h (by rw [hb]; rfl) he
  all_goals exact State.applyHead_discards h (by rw [hb]; rfl) (by simp only [hb]; exact he)

/-- The same for a membership or donor frame, which has no outcome of its own, in whatever words its effect is known. -/
theorem applyCommand_applied_as {a : Applied} (h : Takes s f rest) (hk : f.body.kind = k)
    (he : (popped s rest).effectOf f = some a) :
    ∃ t, exec (applyCommand k) s = .next t
      ∧ ∀ r epoch gs hand, a = ⟨r, epoch, none, gs, hand⟩ →
          AppliedAs s t f rest r epoch (grantNotices s.straps.station gs) hand := by
  obtain ⟨t, ht, happ⟩ := applyCommand_applied h hk he
  refine ⟨t, ht, fun r epoch gs hand ha => ?_⟩
  subst ha
  simpa only [ownOutcome_none, List.nil_append] using happ

/-- A membership or donor frame without grants. -/
theorem applyCommand_applied_plain {r : Replica} {epoch : Option Word16} {hand : List JoinHandOver}
    (h : Takes s f rest) (hk : f.body.kind = k) (he : (popped s rest).effectOf f = some ⟨r, epoch, none, [], hand⟩) :
    ∃ t, exec (applyCommand k) s = .next t ∧ AppliedAs s t f rest r epoch [] hand := by
  obtain ⟨t, ht, happ⟩ := applyCommand_applied_as h hk he
  exact ⟨t, ht, happ r epoch [] hand rfl⟩

end

/-! ### JOIN and FOUND -/

theorem joinedState_eq (offered held : Digest) :
    joinedState offered held =
      if offered.level ≠ held.level then .refuseDue .protocol
      else if offered.space ≠ held.space then .refuseDue .lockSpace
      else if offered.period ≠ held.period then .refuseDue .period
      else if offered.limit ≠ held.limit then .refuseDue .silenceLimit
      else .joining false 0 := by
  simp only [joinedState, compareDigest]
  split_ifs <;> rfl

theorem RecordState.listed_iff {st : RecordState} :
    st.listed = true ↔ (∃ h c, st = .joining h c) ∨ ∃ x, st = .refuseDue x := by
  cases st <;> simp [RecordState.listed]

theorem filter_ne_of_not_mem {j : Station} {l : List Station} (h : j ∉ l) : (l.filter fun t => t ≠ j) = l :=
  List.filter_eq_self.2 fun _ ht => decide_eq_true fun heq => h (heq ▸ ht)

namespace Replica
variable {r : Replica} {j : Station} {offered held : Digest}

theorem makeAbsent_eq (r : Replica) (j : Station) :
    r.makeAbsent j =
      { r with
        members := r.members.set j.val absentRecord
        joinList := r.joinList.filter fun t => t ≠ j } := by
  simp [makeAbsent, setRecord]

theorem expel_eq (r : Replica) (j : Station) :
    r.expel j =
      ({ r with
          locks := (r.removeStation j).1.locks
          members := r.members.set j.val absentRecord
          joinList := r.joinList.filter fun t => t ≠ j },
        (r.removeStation j).2) := by
  simp only [expel, makeAbsent_eq]
  rfl

section
variable (hm : (r.record j).state = .member) (hj : j ∉ r.joinList)
include hm hj

theorem joinRequest_member_room (hroom : r.joinList.length < 15) :
    r.joinRequest j offered held =
      ({ r with
          locks := (r.removeStation j).1.locks
          members := r.members.set j.val ⟨joinedState offered held, 0⟩
          joinList := r.joinList ++ [j] },
        (r.removeStation j).2) := by
  rw [joinRequest_member hm, expel_eq, filter_ne_of_not_mem hj, joinFromAbsent_room]
  · simp only [Vector.set_set, getElem_set_station, if_pos]
    rfl
  · exact hroom

theorem joinRequest_member_full (hfull : 15 ≤ r.joinList.length) :
    r.joinRequest j offered held =
      ({ r with
          locks := (r.removeStation j).1.locks
          members := r.members.set j.val absentRecord },
        (r.removeStation j).2) := by
  rw [joinRequest_member hm, expel_eq, filter_ne_of_not_mem hj, joinFromAbsent_full]
  exact hfull

end

theorem joinAt_eq (self : Station) (r : Replica) (j : Station) (offered held : Digest) :
    r.joinAt self j offered held =
      ({ (r.joinRequest j offered held).1 with
          locks := if j = self then (r.joinRequest j offered held).1.locks.map fun _ => unknownEntry
            else (r.joinRequest j offered held).1.locks },
        (r.joinRequest j offered held).2) := by
  simp only [joinAt]
  split <;> rfl

end Replica

/-- The own FOUND creates the fabric exactly while its FOUND is outstanding and the latch is clear (02 R34). -/
theorem State.creates_iff {s : State} {f : Frame} (hf : f.sender = s.straps.station) (hfab : s.replica.fabric = none) :
    s.creates f = true ↔ s.join.latch = false ∧ (s.join.state = .founding ∨ s.join.state = .joining .sendJoin) := by
  unfold State.creates
  simp only [State.isOwn, State.self, hf, hfab]
  cases s.join.state with
  | joining sub => cases sub <;> simp
  | _ => simp

section
variable {s : State} {f : Frame} {rest : List Frame} {d : Digest}

/-- What a JOIN or a FOUND hands the Join Controller at a fabric (02 R47). -/
def State.joinHanded (s : State) (f : Frame) (d : Digest) : List JoinHandOver :=
  if f.body = .join d then (if f.sender = s.straps.station then [.ownJoin] else [])
  else if f.sender = s.straps.station then [.ownFound false] else [.otherFound]

theorem State.effectOf_joinOrFound {fr : FabricRecord} (hb : f.body = .join d ∨ f.body = .found d)
    (hfab : s.replica.fabric = some fr) :
    s.effectOf f = some (s.joinedBy f fr.digest d (s.joinHanded f d)) := by
  rcases hb with hb | hb
  · simp [State.effectOf, hb, State.joinEffect, hfab, State.joinHanded, State.isOwn]
  · simp [State.effectOf, hb, State.foundEffect, hfab, State.joinHanded, State.isOwn]

theorem State.joinedBy_eq {held : Digest} {r : Replica} {gs : List Grant} {hand : List JoinHandOver}
    (hq : s.replica.joinRequest f.sender d held = (r, gs)) :
    s.joinedBy f held d hand =
      ⟨{ r with locks := if f.sender = s.straps.station then r.locks.map fun _ => unknownEntry else r.locks },
        none, none, gs, hand⟩ := by
  simp only [State.joinedBy, Replica.joinAt_eq, hq]

/-- A JOIN at a station without a fabric record is handed on where it is its own (04 R77). -/
theorem State.effectOf_join_unheld (hb : f.body = .join d) (hfab : s.replica.fabric = none) :
    s.effectOf f =
      if f.sender = s.straps.station then some ⟨s.replica, none, none, [], [.ownJoin]⟩ else none := by
  by_cases hf : f.sender = s.straps.station <;>
    simp [State.effectOf, hb, State.joinEffect, hfab, State.isOwn, hf, Applied.plain]

/-- A FOUND at a station without a fabric record creates the fabric or is handed on (02 R34, 04 R77). -/
theorem State.effectOf_found_unheld (hb : f.body = .found d) (hfab : s.replica.fabric = none) :
    s.effectOf f =
      if s.creates f then some s.createEffect
      else some ⟨s.replica, none, none, [],
        if f.sender = s.straps.station then [.ownFound false] else [.otherFound]⟩ := by
  simp [State.effectOf, hb, State.foundEffect, hfab, State.isOwn, Applied.plain]

theorem State.not_creates_other (hf : f.sender ≠ s.straps.station) : s.creates f = false := by
  simp [State.creates, State.isOwn, hf]

theorem foundedReplica_members (self : Station) (digest : Digest) (locks : Nat) (v : Station) :
    (foundedReplica self digest locks).members[v] = if v = self then ⟨.member, 0⟩ else ⟨.absent, 0⟩ := by
  simp only [foundedReplica, Fin.getElem_fin, Vector.getElem_ofFn]
  rfl

end

/-! ### LEAVE and EVICT -/

section
variable {s : State} {f : Frame} (hfab : s.replica.fabric ≠ none) (hs : s.replica.members[f.sender].state ≠ .absent)
include hfab hs

theorem State.effectOf_leave (hb : f.body = .leave) :
    s.effectOf f = some ⟨(s.replica.expel f.sender).1, none, none, (s.replica.expel f.sender).2,
      if f.sender = s.straps.station then [.ownLeave] else []⟩ := by
  simp [State.effectOf, hb, State.leaveEffect, State.screened_passed _ _ hfab hs, State.isOwn]

theorem State.effectOf_evict {v : Station} {c : Byte} (hb : f.body = .evict v c) :
    s.effectOf f = some
      (if s.replica.evictTaken f.sender v c then
        ⟨(s.replica.expel v).1, none, none, (s.replica.expel v).2,
          if v = s.straps.station then [.evictedSelf] else []⟩
      else Applied.plain s.replica) := by
  rw [State.effectOf, hb]
  exact State.screened_passed _ _ hfab hs

end

/-! ### REFUSE -/

namespace Replica
variable {r : Replica} {j : Station}

theorem refuse_due (h : ∃ x, r.members[j].state = .refuseDue x) : r.refuse j = r.makeAbsent j :=
  if_pos ((r.refusalDue_iff j).2 h)

theorem refuse_other (h : ∀ x, r.members[j].state ≠ .refuseDue x) : r.refuse j = r :=
  if_neg fun hdue => (not_exists.2 h) ((r.refusalDue_iff j).1 hdue)

end Replica

section
variable {s : State} {f : Frame} {j : Station} {reason : RefusalReason} (hb : f.body = .refuse j reason)
include hb

theorem State.effectOf_refuse_held (hfab : s.replica.fabric ≠ none)
    (hs : s.replica.members[f.sender].state = .member) :
    s.effectOf f = some ⟨s.replica.refuse j, none, none, [],
      if j = s.straps.station ∧ (s.replica.refusalDue j).isSome = true then [.refused reason] else []⟩ := by
  rw [State.effectOf, hb]
  exact (if_pos (Option.isSome_iff_ne_none.2 hfab)).trans (State.screenedDonor_passed _ hs)

theorem State.effectOf_refuse_unheld (hfab : s.replica.fabric = none) (hf : f.sender ≠ s.straps.station) :
    s.effectOf f =
      if j = s.straps.station ∧ f.senderState = .member then some ⟨s.replica, none, none, [], [.refused reason]⟩
      else none := by
  simp [State.effectOf, hb, State.refuseEffect, hfab, State.isOwn, hf, Applied.plain]

end

/-! ### SNAPHEAD and SNAPDATA -/

namespace Replica
variable {r : Replica} {j : Station}

theorem setHeadSent_joining {b : Bool} {c : Nat} (h : r.members[j].state = .joining b c) :
    r.setHeadSent j =
      { r with members := r.members.set j.val { r.members[j] with state := .joining true c } } := by
  have hrecord : (r.record j).state = .joining b c := h
  rw [setHeadSent, hrecord]
  rfl

/-- The cursor reaches L: the station is a MEMBER and leaves the list. -/
theorem advance_full {cursor : Nat} (h : cursor = r.lockLimit) :
    r.advance j cursor =
      { r with
        members := r.members.set j.val { r.members[j] with state := .member }
        joinList := r.joinList.filter fun t => t ≠ j } := by
  rw [advance, if_pos h]
  simp only [setState, setRecord, decide_not]
  rfl

theorem advance_part {cursor : Nat} (h : cursor ≠ r.lockLimit) :
    r.advance j cursor =
      { r with members := r.members.set j.val { r.members[j] with state := .joining true cursor } } := if_neg h

end Replica

section
variable {s : State} {f : Frame} {h : SnapHead} (hb : f.body = .snaphead h)
include hb

theorem State.effectOf_snaphead_held (hfab : s.replica.fabric ≠ none)
    (hs : s.replica.members[f.sender].state = .member) :
    s.effectOf f = some
      (if s.replica.headTaken h.joiner then
        if h.joiner = s.straps.station then s.takeOwnHead f h else Applied.plain (s.replica.setHeadSent h.joiner)
      else Applied.plain s.replica) := by
  rw [State.effectOf, hb]
  exact (if_pos (Option.isSome_iff_ne_none.2 hfab)).trans (State.screenedDonor_passed _ hs)

theorem State.effectOf_snaphead_unheld (hfab : s.replica.fabric = none) (hf : f.sender ≠ s.straps.station) :
    s.effectOf f =
      if h.joiner = s.straps.station ∧ f.senderState = .member ∧ h.agrees f.sender = true then
        some (s.takeOwnHead f h)
      else none := by
  simp [State.effectOf, hb, State.snapheadEffect, hfab, State.isOwn, hf]

end

/-- What the joiner installs: the content with every lock entry UNKNOWN and its own head-sent flag set (02 R43). -/
theorem State.takeOwnHead_eq {s : State} {f : Frame} {h : SnapHead} {b : Bool} {c : Nat}
    (hj : h.members[h.joiner].state = .joining b c) :
    s.takeOwnHead f h =
      ⟨{ locks := s.replica.locks.map fun _ => unknownEntry
         members := h.members.set h.joiner.val { h.members[h.joiner] with state := .joining true c }
         joinList := h.joinList
         fabric := some ⟨h.digest, h.founder⟩ },
        some (f.epoch + 1 + BitVec.ofNat 16 s.intake.queue.length), none, [], [.ownSnaphead]⟩ := by
  have hsent := Replica.setHeadSent_joining (r := s.replica.installHead h) (j := h.joiner) hj
  rw [State.takeOwnHead, hsent]
  rfl

section
variable {s : State} {f : Frame} {j : Station} {start : Byte} {es : List SnapEntry}

theorem State.effectOf_snapdata (hb : f.body = .snapdata j start es) (hfab : s.replica.fabric ≠ none)
    (hs : s.replica.members[f.sender].state = .member) :
    s.effectOf f = some
      (if s.replica.dataTaken j start.toNat then s.takeData j start es else Applied.plain s.replica) := by
  rw [State.effectOf, hb]
  exact (if_pos (Option.isSome_iff_ne_none.2 hfab)).trans (State.screenedDonor_passed _ hs)

/-- The lock table as the taking of a SNAPDATA leaves it: the joiner itself installs the entries (01 R26). -/
def State.locksWith (s : State) (j : Station) (es : List SnapEntry) : List LockEntry :=
  if j = s.straps.station then es.foldl (fun ls e => ls.set e.lock.toNat e.entry) s.replica.locks
  else s.replica.locks

/-- The taking of a SNAPDATA, once the advance of the cursor is known. -/
theorem State.takeData_of_advance {r : Replica}
    (hr : ({ s.replica with locks := s.locksWith j es } : Replica).advance j (start.toNat + es.length) = r)
    {reached : Bool} (hreached : (r.record j).state = .member ↔ reached = true) :
    s.takeData j start es =
      ⟨r, none, none, [], if j = s.straps.station then [.ownSnapdata reached] else []⟩ := by
  have hdecide : decide ((r.record j).state = .member) = reached := by
    rw [Bool.eq_iff_iff, decide_eq_true_iff, hreached]
  subst hr hdecide
  unfold State.takeData State.locksWith
  by_cases hj : j = s.straps.station
  · simp only [if_pos hj, Replica.installEntries_eq]
    rfl
  · simp only [if_neg hj]
    rfl

theorem State.takeData_full (hlimit : start.toNat + es.length = s.replica.lockLimit) :
    s.takeData j start es =
      ⟨{ s.replica with
          locks := s.locksWith j es
          members := s.replica.members.set j.val { s.replica.members[j] with state := .member }
          joinList := s.replica.joinList.filter fun t => t ≠ j },
        none, none, [], if j = s.straps.station then [.ownSnapdata true] else []⟩ := by
  refine State.takeData_of_advance (Replica.advance_full hlimit) ?_
  simp only [Replica.record, getElem_set_station, if_pos]

theorem State.takeData_part (hlimit : start.toNat + es.length ≠ s.replica.lockLimit) :
    s.takeData j start es =
      ⟨{ s.replica with
          locks := s.locksWith j es
          members := s.replica.members.set j.val
            { s.replica.members[j] with state := .joining true (start.toNat + es.length) } },
        none, none, [], if j = s.straps.station then [.ownSnapdata false] else []⟩ := by
  refine State.takeData_of_advance (Replica.advance_part hlimit) ?_
  simp [Replica.record]

end

end Sys2Proof.Machine

namespace Sys2Proof.Membership
open Sys2Proof.Machine Sys2Proof.Safety

/-- Settles O25: one rule of Replica.joinRequest for each state of the sender's record. -/
theorem applyJoinOrFoundAtAFabric : Obligations.ApplyJoinOrFoundAtAFabric := by
  intro s f rest d fr htakes hb hfab j st r atJ handed
  have hst : joinedState d fr.digest = st := joinedState_eq d fr.digest
  obtain ⟨t, ht, happ⟩ := applyCommand_applied_as htakes rfl (State.effectOf_joinOrFound (s := popped s rest) hb hfab)
  rw [← hst]
  refine ⟨t, ht, fun habsent hroom => ?_, fun habsent hfull => ?_, fun hlisted => ?_, fun hmem hj hroom => ?_,
    fun hmem hj hfull => ?_⟩
  · have hq := Replica.joinRequest_absent (offered := d) (held := fr.digest) habsent
    rw [Replica.joinFromAbsent_room hroom] at hq
    exact happ _ _ [] _ (State.joinedBy_eq hq)
  · have hq := Replica.joinRequest_absent (offered := d) (held := fr.digest) habsent
    rw [Replica.joinFromAbsent_full hfull] at hq
    exact happ _ _ [] _ (State.joinedBy_eq hq)
  · exact happ _ _ [] _ (State.joinedBy_eq (Replica.joinRequest_listed (RecordState.listed_iff.2 hlisted)))
  · exact happ _ _ _ _ (State.joinedBy_eq (Replica.joinRequest_member_room hmem hj hroom))
  · exact happ _ _ _ _ (State.joinedBy_eq (Replica.joinRequest_member_full hmem hj hfull))

/-- Settles O26: the two effects of a frame at a station without a fabric record. -/
theorem applyJoinAndFoundWithoutAFabric : Obligations.ApplyJoinAndFoundWithoutAFabric := by
  intro s f rest d htakes hfab
  have hjoin (hb : f.body = .join d) := State.effectOf_join_unheld (s := popped s rest) hb hfab
  have hfound (hb : f.body = .found d) := State.effectOf_found_unheld (s := popped s rest) hb hfab
  refine ⟨fun hb hf => ?_, fun hb hf => ?_, fun hb hf => ?_, fun hb hf hlatch => ?_, fun hb hf hlatch hstate => ?_⟩
  · exact applyCommand_applied_plain (k := .join) htakes (by rw [hb]; rfl) ((hjoin hb).trans (if_pos hf))
  · exact applyCommand_discards (k := .join) htakes (by rw [hb]; rfl) ((hjoin hb).trans (if_neg hf))
  · have hnot : ¬ (popped s rest).creates f = true := Bool.eq_false_iff.1 (State.not_creates_other hf)
    have he := (hfound hb).trans (if_neg hnot)
    rw [if_neg hf] at he
    exact applyCommand_applied_plain (k := .found) htakes (by rw [hb]; rfl) he
  · have hnot : ¬ (popped s rest).creates f = true := fun hc => by
      have hclear := ((State.creates_iff (s := popped s rest) hf hfab).1 hc).1
      exact absurd (hlatch.symm.trans hclear) nofun
    have he := (hfound hb).trans (if_neg hnot)
    rw [if_pos hf] at he
    exact applyCommand_applied_plain (k := .found) htakes (by rw [hb]; rfl) he
  · have hcreates := (State.creates_iff (s := popped s rest) hf hfab).2 ⟨hlatch, hstate⟩
    obtain ⟨t, ht, happ⟩ := applyCommand_applied_plain (k := .found) htakes (by rw [hb]; rfl)
      ((hfound hb).trans (if_pos hcreates))
    exact ⟨t, _, ht, happ, rfl, rfl, rfl, foundedReplica_members _ _ _⟩

/-- Settles O27: the screen passes the frame, and a removal is Replica.expel. -/
theorem applyLeaveAndEvictRemoveAStation : Obligations.ApplyLeaveAndEvictRemoveAStation := by
  intro s f rest htakes hfab hs r without grants
  refine ⟨fun hb => ?_, fun v c hb => ?_⟩
  · obtain ⟨t, ht, happ⟩ := applyCommand_applied_as (k := .leave) htakes (by rw [hb]; rfl)
      (State.effectOf_leave (s := popped s rest) hfab hs hb)
    exact ⟨t, ht, happ _ _ _ _ (by rw [Replica.expel_eq]; rfl)⟩
  · obtain ⟨t, ht, happ⟩ := applyCommand_applied_as (k := .evict) htakes (by rw [hb]; rfl)
      (State.effectOf_evict (s := popped s rest) hfab hs hb)
    have htaken := r.evictTaken_iff f.sender v c
    refine ⟨t, ht, fun hne hpresent hcount => ?_, fun hnot => ?_⟩
    · exact happ _ _ _ _ ((if_pos (htaken.2 ⟨hne, hpresent, hcount⟩)).trans (by rw [Replica.expel_eq]; rfl))
    · refine happ _ _ [] _ (if_neg fun h => ?_)
      obtain ⟨hne, hpresent, hcount⟩ := htaken.1 h
      exact hnot.elim hne (·.elim hpresent (· hcount))

/-- Settles O28: with a fabric record the refusal due decides, without one the station named and the sender state. -/
theorem applyRefuseEndsARefusalDue : Obligations.ApplyRefuseEndsARefusalDue := by
  intro s f rest j reason htakes hb r
  have hk : f.body.kind = .refuse := by rw [hb]; rfl
  refine ⟨fun hfab hs => ?_, fun hfab hf => ?_⟩
  · obtain ⟨t, ht, happ⟩ := applyCommand_applied_as htakes hk
      (State.effectOf_refuse_held (s := popped s rest) hb hfab hs)
    have hdue := s.replica.refusalDue_iff j
    refine ⟨t, ht, fun h => happ _ _ [] _ ?_, fun h => happ _ _ [] _ ?_⟩
    · simp only [Replica.refuse_due (r := s.replica) h, Replica.makeAbsent_eq, hdue.2 h, and_true]
      rfl
    · rw [Replica.refuse_other h, if_neg fun hself => not_exists.2 h (hdue.1 hself.2)]
  · have he := State.effectOf_refuse_unheld (s := popped s rest) hb hfab hf
    by_cases hnamed : j = s.straps.station ∧ f.senderState = .member
    · obtain ⟨t, ht, happ⟩ := applyCommand_applied_plain htakes hk (he.trans (if_pos hnamed))
      exact ⟨t, ht, fun _ _ => happ, fun hnot => absurd hnamed (not_and_or.2 hnot)⟩
    · obtain ⟨t, ht, hdis⟩ := applyCommand_discards htakes hk (he.trans (if_neg hnamed))
      exact ⟨t, ht, fun hj hm => absurd ⟨hj, hm⟩ hnamed, fun _ => hdis⟩

/-- Settles O29: SNAPHEADs by what takes them, SNAPDATAs by whether they are taken and reach L. -/
theorem applySnapshotFramesServeTheJoiner : Obligations.ApplySnapshotFramesServeTheJoiner := by
  refine ⟨?_, ?_⟩
  · intro s f rest h htakes hb r epoch
    have hk : f.body.kind = .snaphead := by rw [hb]; rfl
    have hunheld (hfab : r.fabric = none) (hf : f.sender ≠ s.straps.station) :=
      State.effectOf_snaphead_unheld (s := popped s rest) hb hfab hf
    have hheld (hfab : r.fabric ≠ none) (hs : r.members[f.sender].state = .member) :=
      State.effectOf_snaphead_held (s := popped s rest) hb hfab hs
    have htaken := r.headTaken_iff h.joiner
    have hagrees := h.agrees_iff f.sender
    refine ⟨fun hfab hs => ?_, fun hfab hf hnot => ?_, fun c hself hj hor => ?_⟩
    · obtain ⟨t, ht, happ⟩ := applyCommand_applied_as htakes hk (hheld hfab hs)
      refine ⟨t, ht, fun c tail hother hl hc => happ _ _ [] _ ?_, fun hnot => happ _ _ [] _ (if_neg fun hhead => ?_)⟩
      · refine (if_pos (htaken.2 ⟨by rw [hl]; rfl, c, hc⟩)).trans ((if_neg hother).trans ?_)
        rw [Replica.setHeadSent_joining hc]
        rfl
      · obtain ⟨hfirst, c, hc⟩ := htaken.1 hhead
        exact hnot.elim (· hfirst) (· c hc)
    · refine applyCommand_discards htakes hk ((hunheld hfab hf).trans (if_neg ?_))
      rintro ⟨hself, hmem, hagree⟩
      exact hnot ⟨hself, hmem, hagrees.1 hagree⟩
    · have he : (popped s rest).effectOf f = some ((popped s rest).takeOwnHead f h) := by
        rcases hor with ⟨hfab, hf, hmem, hsender, hfirst⟩ | ⟨hfab, hs, hfirst, hc⟩
        · exact (hunheld hfab hf).trans (if_pos ⟨hself, hmem, hagrees.2 ⟨hsender, hfirst, c, hj⟩⟩)
        · exact (hheld hfab hs).trans (congrArg some ((if_pos (htaken.2 ⟨hfirst, hc⟩)).trans (if_pos hself)))
      rw [State.takeOwnHead_eq hj] at he
      exact applyCommand_applied_plain htakes hk he
  · intro s f rest stations j start es fr htakes hb hfab hs r upTo
    obtain ⟨t, ht, happ⟩ := applyCommand_applied_as (k := .snapdata) htakes (by rw [hb]; rfl)
      (State.effectOf_snapdata (s := popped s rest) hb (by rw [hfab]; nofun) hs)
    have htaken := r.dataTaken_iff j start.toNat
    have hlimit : r.lockLimit = 64 * fr.digest.space.toNat := by rw [Replica.lockLimit, hfab]
    refine ⟨t, ht, fun hl hj => ?_, fun hnot => happ _ _ [] _ (if_neg fun hdata => ?_)⟩
    · have hdata := htaken.2 ⟨by rw [hl]; rfl, hj⟩
      rw [← hl]
      refine ⟨fun hfull => happ _ _ [] _ ((if_pos hdata).trans ?_),
        fun hpart => happ _ _ [] _ ((if_pos hdata).trans ?_)⟩
      · exact State.takeData_full (s := popped s rest) (hfull.trans hlimit.symm)
      · exact State.takeData_part (s := popped s rest) (hlimit ▸ hpart)
    · obtain ⟨hfirst, hj⟩ := htaken.1 hdata
      exact hnot.elim (· hfirst) (· hj)

end Sys2Proof.Membership
end


section
/-! PROOFS. One hand-over at the Presence Monitor (08 R141, R142, R146, R147): the countdowns, the counts held,
isolation and LONE. -/
namespace Sys2Proof.Machine
open Sys2Proof.Safety

/-! ### The counts handed on (08 R143; log 22) -/

/-- The counts after those handed on have been taken, in their order. -/
abbrev countsAfter (cs : Vector Byte 16) (handed : List (Station × Byte)) : Vector Byte 16 :=
  handed.foldl (fun cs c => cs.set c.1.val c.2) cs

theorem countsAfter_unnamed {v : Station} : ∀ {handed : List (Station × Byte)} (cs : Vector Byte 16),
    (∀ c, (v, c) ∉ handed) → (countsAfter cs handed)[v] = cs[v]
  | [], _, _ => rfl
  | (w, b) :: handed, cs, h => by
    have hrest (c : Byte) : (v, c) ∉ handed := fun hc => h c (List.mem_cons_of_mem _ hc)
    have hne : v ≠ w := fun hv => h b (hv ▸ List.mem_cons_self)
    exact (countsAfter_unnamed (cs.set w.val b) hrest).trans ((getElem_set_station cs w v b).trans (if_neg hne))

/-- The count handed on last for a station is the one held. -/
theorem countsAfter_last {v : Station} (cs : Vector Byte 16) (before after : List (Station × Byte)) (c : Byte)
    (h : ∀ c', (v, c') ∉ after) : (countsAfter cs (before ++ (v, c) :: after))[v] = c := by
  unfold countsAfter
  rw [List.foldl_append, List.foldl_cons]
  exact (countsAfter_unnamed _ h).trans ((getElem_set_station _ v v c).trans (if_pos rfl))

/-! ### The countdowns (08 R141, R142) -/

theorem MonitorHandOver.ended_iff (h : MonitorHandOver) (v : Station) :
    h.ended v = true ↔ (v, RecordTag.absent) ∈ h.changes := by
  simp [MonitorHandOver.ended]

/-- Where no record of v became ABSENT, v's record changed exactly where it left ABSENT or moved among the others. -/
theorem MonitorHandOver.changed_iff {h : MonitorHandOver} {v : Station} (hn : (v, RecordTag.absent) ∉ h.changes) :
    h.changed v = true ↔ v ∈ h.changes.map Prod.fst := by
  simp only [MonitorHandOver.changed, List.any_eq_true, Bool.and_eq_true, decide_eq_true_eq, Bool.not_eq_true',
    decide_eq_false_iff_not, List.mem_map]
  refine exists_congr fun c => and_congr_right fun hc => and_iff_left_of_imp ?_
  rintro rfl habsent
  exact hn (habsent ▸ hc)

section
variable {s : State} {h : MonitorHandOver} {v : Station}

theorem State.countdownsAfter_getElem (s : State) (h : MonitorHandOver) (v : Station) :
    (s.countdownsAfter h)[v] =
      if h.ended v then .stopped
      else if s.countdownCreated h v || s.countdownLoaded h v then .running s.silenceLimit
      else s.monitor.countdowns[v] := by
  simp [State.countdownsAfter]

theorem State.countdownsAfter_ended (hv : (v, RecordTag.absent) ∈ h.changes) :
    (s.countdownsAfter h)[v] = .stopped := by
  rw [State.countdownsAfter_getElem, if_pos ((h.ended_iff v).2 hv)]

section
variable (hself : v ≠ s.straps.station) (hv : (v, RecordTag.absent) ∉ h.changes)
include hself hv

/-- A countdown is created where none was kept. -/
theorem State.countdownsAfter_of_stopped (hstopped : s.monitor.countdowns[v] = .stopped) :
    (s.countdownsAfter h)[v] =
      if s.replica.fabric ≠ none ∧ v ∈ h.changes.map Prod.fst then .running s.silenceLimit else .stopped := by
  have hended : h.ended v = false := Bool.eq_false_iff.2 fun he => hv ((h.ended_iff v).1 he)
  have hloaded : s.countdownLoaded h v = false := by
    simp only [State.countdownLoaded, hstopped, decide_true, Bool.not_true, Bool.and_false, Bool.false_and]
  have hcreated : s.countdownCreated h v = true ↔ s.replica.fabric ≠ none ∧ v ∈ h.changes.map Prod.fst := by
    rw [← MonitorHandOver.changed_iff hv]
    simp only [State.countdownCreated, hstopped, hended]
    simp [hself, Option.isSome_iff_ne_none]
  rw [State.countdownsAfter_getElem, hended, hloaded, hstopped, Bool.or_false, if_neg Bool.false_ne_true]
  simp only [hcreated]

/-- A countdown that is kept is loaded with the sender's frame, and stands at another's. -/
theorem State.countdownsAfter_of_kept (hkept : s.monitor.countdowns[v] ≠ .stopped) :
    (s.countdownsAfter h)[v] = if v = h.sender then .running s.silenceLimit else s.monitor.countdowns[v] := by
  have hended : h.ended v = false := Bool.eq_false_iff.2 fun he => hv ((h.ended_iff v).1 he)
  have hcreated : s.countdownCreated h v = false := by
    simp only [State.countdownCreated, hkept, decide_false, Bool.and_false, Bool.false_and]
  have hloaded : s.countdownLoaded h v = true ↔ v = h.sender := by
    simp only [State.countdownLoaded, hkept, hended]
    simp [hself]
  rw [State.countdownsAfter_getElem, hended, hcreated, Bool.false_or, if_neg Bool.false_ne_true]
  simp only [hloaded]

end

/-! ### The hand-over whole -/

theorem State.retest_sched_only (s : State) : s.retest = { s with sched := s.retest.sched } := by
  have hfold := retest_fold s.monitor s.self (List.finRange 16) (List.nodup_finRange 16) s rfl rfl
  rw [State.retest, hfold]

/-- LONE after a hand-over: it stays set only at an own frame while the member table names another station. -/
def State.loneAfter (s : State) (h : MonitorHandOver) : Bool :=
  s.monitor.lone && decide (h.sender = s.straps.station) && s.replica.namesOther s.straps.station

/-- The attention set after a hand-over: the change of LONE sets its reason. -/
def State.attentionAfter (s : State) (h : MonitorHandOver) : BitVec 4 :=
  if s.monitor.lone = true ∧ s.loneAfter h = false then s.port.attention ||| 8 else s.port.attention

/-- LONE becomes clear at another station's frame, and at an own one where the member table names no other station. -/
theorem State.loneAfter_cleared
    (hclear : h.sender ≠ s.straps.station ∨ s.replica.namesOther s.straps.station = false) :
    s.loneAfter h = false
      ∧ s.attentionAfter h = if s.monitor.lone then s.port.attention ||| 8 else s.port.attention := by
  have hlone : s.loneAfter h = false := by
    unfold State.loneAfter
    rcases hclear with hother | hnone
    · simp [hother]
    · simp [hnone]
  exact ⟨hlone, by simp only [State.attentionAfter, hlone, and_true]⟩

theorem State.loneAfter_stands (hown : h.sender = s.straps.station)
    (hnames : s.replica.namesOther s.straps.station = true) :
    s.loneAfter h = s.monitor.lone ∧ s.attentionAfter h = s.port.attention := by
  have hlone : s.loneAfter h = s.monitor.lone := by simp [State.loneAfter, hown, hnames]
  refine ⟨hlone, if_neg ?_⟩
  rw [hlone]
  exact fun hchange => absurd (hchange.1.symm.trans hchange.2) nofun

theorem State.clearLone_monitorAfter (s : State) (h : MonitorHandOver) :
    (s.withMonitor (s.monitorAfter h)).clearLone h =
      { s with
        monitor := { s.monitorAfter h with lone := s.loneAfter h }
        port := { s.port with attention := s.attentionAfter h } } := by
  have hchange : s.monitor.lone = true
        ∧ (h.sender ≠ s.straps.station ∨ s.replica.namesOther s.straps.station = false)
      ↔ s.monitor.lone = true ∧ s.loneAfter h = false := by
    refine and_congr_right fun hl => ?_
    simp [State.loneAfter, hl, imp_iff_not_or]
  have hport : (if s.monitor.lone = true
        ∧ (h.sender ≠ s.straps.station ∨ s.replica.namesOther s.straps.station = false) then
      { s.port with attention := s.port.attention ||| 8 } else s.port)
      = { s.port with attention := s.attentionAfter h } := by
    rw [if_congr hchange rfl rfl]
    unfold State.attentionAfter
    split <;> rfl
  rw [State.clearLone_eq, ← hport]
  rfl

/-- What a hand-over leaves of each block: the Monitor's fields, the LONE reason, and the scheduler. -/
theorem State.presenceHandOver_eq (s : State) (h : MonitorHandOver) :
    s.presenceHandOver h =
      { s with
        sched := (s.presenceHandOver h).sched
        monitor := { s.monitorAfter h with lone := s.loneAfter h }
        port := { s.port with attention := s.attentionAfter h } } := by
  simp only [State.presenceHandOver, State.clearLone_monitorAfter, State.removeEvicts_eq]
  split
  · rw [State.retest_sched_only]
  · rfl

theorem State.tickOpen_eq_false (hdone : EarlierCountersDone s 16) (hiso : s.monitor.isolation ≠ .due) :
    s.monitor.tickOpen = false := by
  obtain ⟨hown, hbelow⟩ := hdone
  simp [Monitor.tickOpen, hown, hiso, (s.monitor.dueBelow_eq_false_iff 16).2 hbelow]

/-- The oldest hand-over is taken where the Monitor's tick event is complete and the Join Controller waits for none. -/
theorem execPresenceHandOver_taken {rest : List MonitorHandOver} (hr : s.resetHeld = false)
    (hq : s.hand.monitor = h :: rest) (hj : s.hand.join = []) (hopen : s.monitor.tickOpen = false) :
    ∃ t, exec .presenceHandOver s = .next t
      ∧ t = { s with
          hand := { s.hand with monitor := rest }
          sched := t.sched
          monitor := { s.monitorAfter h with lone := s.loneAfter h }
          port := { s.port with attention := s.attentionAfter h } } := by
  refine ⟨((s.withHand { s.hand with monitor := rest }).presenceHandOver h).settleAlive, ?_, ?_⟩
  · refine (State.whenRunning_of_released s (fun s => _) hr).trans ?_
    simp [hq, hj, hopen]
  · rw [State.settleAlive_sched_only, State.presenceHandOver_eq]
    rfl

end

end Sys2Proof.Machine

namespace Sys2Proof.Membership
open Sys2Proof.Machine Sys2Proof.Safety

/-- Settles O41: the Monitor's fields after the hand-over, each by its own rule. -/
theorem handOverMovesTheCountdowns : Obligations.HandOverMovesTheCountdowns := by
  intro s h rest hr hq hj hdone hiso
  obtain ⟨t, ht, heq⟩ := execPresenceHandOver_taken hr hq hj (State.tickOpen_eq_false hdone hiso)
  have hmonitor : t.monitor = { s.monitorAfter h with lone := s.loneAfter h } := by rw [heq]
  have hattention : t.port.attention = s.attentionAfter h := by rw [heq]
  have hnames := s.replica.namesOther_iff s.straps.station
  refine ⟨t, ht, ?_⟩
  rw [hmonitor, hattention]
  refine ⟨heq, fun v hv => State.countdownsAfter_ended hv,
    fun v hself hv hstopped => State.countdownsAfter_of_stopped hself hv hstopped,
    fun v hself hv hkept => State.countdownsAfter_of_kept hself hv hkept, fun hother => ⟨if_neg hother, ?_⟩,
    fun hown => ⟨if_pos hown, fun hex => ?_, fun hall => ?_⟩, fun v hv => countsAfter_unnamed _ hv,
    fun v c before after hsplit hlast => ?_⟩
  · exact State.loneAfter_cleared (.inl hother)
  · exact State.loneAfter_stands hown (hnames.2 hex)
  · refine State.loneAfter_cleared (.inr (Bool.eq_false_iff.2 fun h => ?_))
    obtain ⟨v, hv, hpresent⟩ := hnames.1 h
    exact hpresent (hall v hv)
  · have hlast := countsAfter_last s.monitor.counts before after c hlast
    rwa [← hsplit] at hlast

end Sys2Proof.Membership
end


section
/-! PROOFS. Gap, pulse, start mark and own slot (03 R50 to R52), the winner of a window (03 R53, R58), and what the
station does at the window's close (03 R53, R54). -/
namespace Sys2Proof.Machine
open Sys2Proof.Safety

/-! ### The idle line and the own slot (03 R50 to R52) -/

theorem State.wouldBid_iff (s : State) : s.wouldBid = true ↔ MayBid s := by
  simp [State.wouldBid, State.candidate, MayBid, Config.applyQueueLimit, Option.isSome_iff_ne_none, and_assoc]

theorem State.markTaken_of_idle {s : State} {source : MarkSource} (hidle : s.pli.line = .idle)
    (hown : source = .own → s.pli.gap = true ∧ MayBid s) : s.markTaken source = true := by
  cases source with
  | own =>
    obtain ⟨hgap, hbid⟩ := hown rfl
    simp [State.markTaken, hidle, hgap, s.wouldBid_iff.2 hbid]
  | other => simp [State.markTaken, hidle]

theorem State.markTaken_of_not_idle {s : State} (source : MarkSource) (hline : s.pli.line ≠ .idle) :
    s.markTaken source = false := by
  cases source <;> simp [State.markTaken, hline]

theorem State.idleMeasureLoad_eq (s : State) :
    s.idleMeasureLoad = if s.settings = none then .stopped else .running s.joinWaitTicks := by
  unfold State.idleMeasureLoad
  split <;> simp_all

/-! ### The rotation order (03 R53, R58) -/

/-- The station that stands k places behind the first in rotation order. -/
def rotationSlot (origin : Station) (k : Nat) : Station := Fin.ofNat 16 (origin.val + 1 + k)

section
variable (origin s : Station)

theorem rotationDistance_rotationSlot {k : Nat} (hk : k < 16) :
    rotationDistance origin (rotationSlot origin k) = k + 1 := by
  simp only [rotationDistance, rotationSlot, Fin.val_ofNat]
  omega

theorem exists_rotationSlot : ∃ k < 16, rotationSlot origin k = s := by
  refine ⟨(s.val + 15 - origin.val) % 16, Nat.mod_lt _ (by decide), Fin.ext ?_⟩
  simp only [rotationSlot, Fin.val_ofNat]
  omega

end

theorem windowWinner_eq_map (origin : Station) (slots : BitVec 16) :
    windowWinner origin slots =
      ((List.range 16).find? (slotAsserted slots ∘ rotationSlot origin)).map (rotationSlot origin) :=
  List.find?_map

/-- The winner stands at the first place whose slot is asserted. -/
theorem windowWinner_eq_some_iff_first (origin : Station) (slots : BitVec 16) (w : Station) :
    windowWinner origin slots = some w ↔
      ∃ k < 16, rotationSlot origin k = w ∧ slots.getLsbD w.val = true
        ∧ ∀ j < k, slots.getLsbD (rotationSlot origin j).val = false := by
  simp only [windowWinner_eq_map, Option.map_eq_some_iff, List.find?_range_eq_some, slotAsserted, Function.comp,
    List.mem_range, Bool.not_eq_true']
  constructor
  · rintro ⟨k, ⟨hset, hk, hfirst⟩, rfl⟩
    exact ⟨k, hk, rfl, hset, hfirst⟩
  · rintro ⟨k, hk, rfl, hset, hfirst⟩
    exact ⟨k, ⟨hset, hk, hfirst⟩, rfl⟩

theorem windowWinner_eq_some_iff (origin : Station) (slots : BitVec 16) (w : Station) :
    windowWinner origin slots = some w ↔
      slots.getLsbD w.val = true
        ∧ ∀ v : Station, slots.getLsbD v.val = true → rotationDistance origin w ≤ rotationDistance origin v := by
  rw [windowWinner_eq_some_iff_first]
  constructor
  · rintro ⟨k, hk, rfl, hset, hfirst⟩
    refine ⟨hset, fun v hv => ?_⟩
    obtain ⟨j, hj, rfl⟩ := exists_rotationSlot origin v
    rw [rotationDistance_rotationSlot origin hk, rotationDistance_rotationSlot origin hj]
    by_contra hlt
    rw [hfirst j (by omega)] at hv
    cases hv
  · rintro ⟨hset, hnearest⟩
    obtain ⟨k, hk, rfl⟩ := exists_rotationSlot origin w
    refine ⟨k, hk, rfl, hset, fun j hj => Bool.eq_false_iff.2 fun hv => ?_⟩
    have hle := hnearest _ hv
    rw [rotationDistance_rotationSlot origin hk, rotationDistance_rotationSlot origin (hj.trans hk)] at hle
    omega

theorem windowWinner_eq_none_iff (origin : Station) (slots : BitVec 16) :
    windowWinner origin slots = none ↔ ∀ v : Station, ¬ slots.getLsbD v.val = true := by
  simp only [windowWinner_eq_map, Option.map_eq_none_iff, List.find?_eq_none, List.mem_range, slotAsserted,
    Function.comp]
  refine ⟨fun h v => ?_, fun h k _ => h _⟩
  obtain ⟨k, hk, rfl⟩ := exists_rotationSlot origin v
  exact h k hk

/-- A station between the origin and s is nearer to s than the origin is. -/
theorem rotationDistance_lt {origin w s : Station} (hle : rotationDistance origin w ≤ rotationDistance origin s)
    (hne : s ≠ w) : rotationDistance w s < rotationDistance origin s := by
  have hval : s.val ≠ w.val := fun h => hne (Fin.ext h)
  simp only [rotationDistance] at *
  omega

/-! ### The slots heard (03 R52, R70) -/

theorem State.heardSlots_iff (s : State) (slots : BitVec 16) (n : Station) :
    (s.heardSlots slots).getLsbD n.val = true ↔ heard s slots n := by
  have hbit : (1#16 <<< s.straps.station.val).getLsbD n.val = true ↔ n = s.straps.station := by
    rw [← BitVec.twoPow_eq, BitVec.getLsbD_twoPow]
    simp [Fin.ext_iff, eq_comm]
  unfold State.heardSlots heard
  by_cases hown : s.pli.ownSlot = some true
  · rw [if_pos hown, BitVec.getLsbD_or, Bool.or_eq_true, hbit, and_iff_left hown]
  · simp [hown]

section
variable {s : State} {slots : BitVec 16}

theorem State.windowWinner_heard {w : Station} (hw : heard s slots w)
    (hnearest : ∀ n, heard s slots n → rotationDistance s.pli.origin w ≤ rotationDistance s.pli.origin n) :
    windowWinner s.pli.origin (s.heardSlots slots) = some w :=
  (windowWinner_eq_some_iff _ _ _).2
    ⟨(s.heardSlots_iff slots w).2 hw, fun v hv => hnearest v ((s.heardSlots_iff slots v).1 hv)⟩

theorem State.windowWinner_unheard (h : ∀ n, ¬ heard s slots n) :
    windowWinner s.pli.origin (s.heardSlots slots) = none :=
  (windowWinner_eq_none_iff _ _).2 fun v hv => h v ((s.heardSlots_iff slots v).1 hv)

/-! ### The window's close (03 R53, R54) -/

section
variable (frameStart : Bool) (hr : s.resetHeld = false) (hline : s.pli.line = .bidding)
include hr hline

theorem execWindowClose_empty (h : ∀ n, ¬ heard s slots n) :
    execWindowClose slots frameStart s = .next (s.withPli s.pli.closeEmpty) := by
  refine (State.whenRunning_of_released s _ hr).trans ?_
  simp only [if_pos hline, State.windowWinner_unheard h]

theorem execWindowClose_won (hwin : windowWinner s.pli.origin (s.heardSlots slots) = some s.straps.station)
    (hstands : s.bidStands = true) : execWindowClose slots frameStart s = .next s.winBid := by
  refine (State.whenRunning_of_released s _ hr).trans ?_
  simp only [if_pos hline, hwin, hstands, and_self, if_true]

theorem execWindowClose_lost {w : Station} (hwin : windowWinner s.pli.origin (s.heardSlots slots) = some w)
    (hlost : ¬ (w = s.straps.station ∧ s.bidStands = true)) :
    execWindowClose slots frameStart s =
      .next (s.withPli
        (if frameStart then
          { s.pli with line := .receiving, winner := w, part := s.join.state.participant && s.pli.synced,
                       sent := none, copy := none, markE := false, markF := false }
        else s.pli.closeEmpty)) := by
  refine (State.whenRunning_of_released s _ hr).trans ?_
  simp only [if_pos hline, hwin]
  rw [if_neg hlost]
  cases frameStart <;> rfl

end

/-- What the Operations Unit is told of an item that goes on the line or leaves it: a lock item alone (06 R102). -/
def ItemId.notices (e : NoticeEvent) : ItemId → List Notice
  | .lock k o l => [⟨k, o, l, e⟩]
  | .control _ => []

theorem State.noticeFor_eq (s : State) (id : ItemId) (e : NoticeEvent) :
    s.noticeFor id e = { s with hand := { s.hand with notices := s.hand.notices ++ id.notices e } } := by
  cases id with
  | control p => simp [State.noticeFor, ItemId.notices]
  | lock k o l => rfl

theorem State.winBid_candidate {id : ItemId} (h : s.candidate = some id) :
    s.winBid =
      { s with
        pli := { s.pli with
          line := .sending, winner := s.straps.station, part := s.pli.synced, sent := some (s.fillFrame (s.bodyOf id))
          copy := none, markE := false, markF := false }
        sched := s.sched.won id
        hand := { s.hand with notices := s.hand.notices ++ id.notices .onLine } } := by
  unfold State.winBid
  rw [h]
  exact State.noticeFor_eq _ _ _

theorem State.winBid_no_candidate (h : s.candidate = none) :
    s.winBid =
      { s with
        pli := { s.pli with
          line := .sending, winner := s.straps.station, part := s.pli.synced, sent := some (s.fillFrame .alive)
          copy := none, markE := false, markF := false }
        sched := s.sched.wonUnlisted } := by
  unfold State.winBid
  rw [h]
  rfl

end

end Sys2Proof.Machine

namespace Sys2Proof.PeerLine
open Sys2Proof.Machine Sys2Proof.Safety

/-- Settles O11: distances are the places in rotation order, and the winner's is the least. -/
theorem winnerIsNearestTheOrigin : Obligations.WinnerIsNearestTheOrigin := by
  refine ⟨windowWinner_eq_some_iff, fun origin slots w s hwin hs hne => ?_⟩
  obtain ⟨-, hnearest⟩ := (windowWinner_eq_some_iff origin slots w).1 hwin
  exact rotationDistance_lt (hnearest s hs) hne

/-- Settles O10: the commands of an idle line and of the own slot, each by its guard. -/
theorem idleLineOpensWindowsAndSlots : Obligations.IdleLineOpensWindowsAndSlots := by
  refine ⟨fun s hr => ⟨fun hline => ?_, fun hidle => ?_, fun hline => ⟨?_, fun source => ?_⟩,
    fun source hidle hown => ?_⟩, fun s hr hline hslot => ?_⟩
  · exact (State.whenRunning_of_released s _ hr).trans (congrArg _ (if_pos (s.pli.line.awaitsGap_iff.2 hline)))
  · exact (State.whenRunning_of_released s _ hr).trans (congrArg _ (if_pos hidle))
  · exact (State.whenRunning_of_released s _ hr).trans (congrArg _ (if_neg hline))
  · refine (State.whenRunning_of_released s _ hr).trans (congrArg _ (if_neg ?_))
    simp [State.markTaken_of_not_idle source hline]
  · refine (State.whenRunning_of_released s _ hr).trans ?_
    rw [if_pos (State.markTaken_of_idle hidle hown), State.idleMeasureLoad_eq]
    rfl
  · have hexec : exec .ownSlotBegins s = .next (s.withPli { s.pli with ownSlot := some s.wouldBid }) :=
      (State.whenRunning_of_released s _ hr).trans (congrArg _ (if_pos ⟨hline, hslot⟩))
    refine ⟨fun hbid => ?_, fun hnot => ?_⟩
    · rw [hexec, s.wouldBid_iff.2 hbid]
      rfl
    · rw [hexec, Bool.eq_false_iff.2 fun h => hnot (s.wouldBid_iff.1 h)]
      rfl

/-- Settles O12: the winner of the slots heard decides, and a won bid puts the candidate or an ALIVE on the line. -/
theorem windowCloseDecidesTheTransmission : Obligations.WindowCloseDecidesTheTransmission := by
  refine ⟨fun slots frameStart s hr hline => ⟨execWindowClose_empty frameStart hr hline,
    fun w hw hnearest hlost => ?_⟩, fun slots frameStart s hr hline hslot hpart hkept hnearest => ?_⟩
  · have hnot : ¬ (w = s.straps.station ∧ s.bidStands = true) := by
      rintro ⟨hself, hstands⟩
      obtain ⟨hslot, hpart, hkept⟩ := s.bidStands_iff.1 hstands
      simp [hself, hslot, hpart, hkept] at hlost
    exact execWindowClose_lost frameStart hr hline (State.windowWinner_heard hw hnearest) hnot
  · have hexec : exec (.windowClose slots frameStart) s = .next s.winBid :=
      execWindowClose_won frameStart hr hline (State.windowWinner_heard (.inr ⟨rfl, hslot⟩) hnearest)
        (s.bidStands_iff.2 ⟨hslot, hpart, hkept⟩)
    cases hc : s.candidate with
    | none =>
      have hwon := State.winBid_no_candidate hc
      have hnone : s.sched.candidate s.intake.queue.isEmpty = none := hc
      refine ⟨s.winBid, .alive, hexec, by rw [hwon]; rfl, fun _ => by rw [hwon]; exact ⟨rfl, rfl, rfl⟩,
        fun id hid => ?_⟩
      rw [hnone] at hid
      cases hid
    | some id =>
      have hwon := State.winBid_candidate hc
      have hsome : s.sched.candidate s.intake.queue.isEmpty = some id := hc
      refine ⟨s.winBid, s.bodyOf id, hexec, by rw [hwon]; rfl, fun hnone => ?_, fun id' hid => ?_⟩
      · rw [hsome] at hnone
        cases hnone
      · rw [hsome] at hid
        cases hid
        rw [hwon]
        exact ⟨rfl, rfl, rfl⟩

end Sys2Proof.PeerLine
end


section
/-! PROOFS. The end of a frame (03 R55, R56, R60): the readback of the sender, the checks of a receiver, and where a
receiver ends the frame (05 R85 to R88). -/
namespace Sys2Proof.Machine
open Sys2Proof.Safety

/-! ### The marks (03 R55, R56, R60) -/

/-- The readback differs at some bit that was driven recessive and heard dominant. -/
theorem readbackDiffers_iff (driven heard : List Level) :
    readbackDiffers driven heard = true ↔ ∃ n : Nat, driven[n]? = some .recessive ∧ heard[n]? = some .dominant := by
  simp only [readbackDiffers, List.any_eq_true, Bool.and_eq_true, decide_eq_true_eq, Prod.exists, List.mem_iff_getElem?,
    List.getElem?_zip_eq_some]
  constructor
  · rintro ⟨_, _, ⟨n, hdriven, hheard⟩, rfl, rfl⟩
    exact ⟨n, hdriven, hheard⟩
  · rintro ⟨n, hdriven, hheard⟩
    exact ⟨_, _, ⟨n, hdriven, hheard⟩, rfl, rfl⟩

theorem State.copyAgrees_iff (s : State) (f : Frame) :
    s.copyAgrees f = true ↔ f.sender = s.pli.winner ∧ (s.intake.valid = true → f.epoch = s.intake.epoch) := by
  simp [State.copyAgrees, imp_iff_not_or]

theorem State.receiverMarkE_iff (s : State) (copy : Option Frame) :
    s.receiverMarkE copy = true ↔
      ¬ ∃ f, copy = some f ∧ f.sender = s.pli.winner ∧ (s.intake.valid = true → f.epoch = s.intake.epoch) := by
  cases copy with
  | none => simp [State.receiverMarkE]
  | some f => simp only [State.receiverMarkE, Bool.not_eq_true', Bool.eq_false_iff, ne_eq, s.copyAgrees_iff,
      Option.some.injEq, exists_eq_left']

theorem execFrameEnd_sending {s : State} {f : Frame} (levels : List Level) (hr : s.resetHeld = false)
    (hline : s.pli.line = .sending) (hsent : s.pli.sent = some f) :
    execFrameEnd levels s =
      .next (s.withPli { s.pli with
        line := .veto, part := s.partNow
        markE := s.partNow && readbackDiffers (frameLevels f) levels, markF := false }) := by
  refine (State.whenRunning_of_released s _ hr).trans ?_
  simp only [hline, hsent]

theorem execFrameEnd_receiving {s : State} (levels : List Level) (hr : s.resetHeld = false)
    (hline : s.pli.line = .receiving) :
    execFrameEnd levels s =
      .next (s.withPli { s.pli with
        line := .veto, part := s.partNow, copy := receiveFrame s.replica.lockLimit levels
        markE := s.partNow && s.receiverMarkE (receiveFrame s.replica.lockLimit levels)
        markF := s.partNow && decide (4 ≤ s.intake.queue.length) }) := by
  refine (State.whenRunning_of_released s _ hr).trans ?_
  simp only [hline]

/-! ### Bits on the line (03 R69, 05 R85) -/

/-- What follows some data bits leaves the bits driven for them as they are. -/
theorem insertBits_append (bits more : List Bool) : ∀ (prev : Bool) (run : Nat),
    ∃ rest, insertBits prev run (bits ++ more) = insertBits prev run bits ++ rest := by
  induction bits with
  | nil =>
    intro prev run
    by_cases hrun : run = 5
    · cases more with
      | nil => exact ⟨[], (List.append_nil _).symm⟩
      | cons b bs => exact ⟨b :: insertBits b (if b = !prev then 2 else 1) bs, by simp [insertBits, hrun]⟩
    · exact ⟨insertBits prev run more, by simp [insertBits, hrun]⟩
  | cons b bits ih =>
    intro prev run
    by_cases hrun : run = 5
    · obtain ⟨rest, hrest⟩ := ih b (if b = !prev then 2 else 1)
      exact ⟨rest, by simp [insertBits, hrun, hrest]⟩
    · obtain ⟨rest, hrest⟩ := ih b (if b = prev then run + 1 else 1)
      exact ⟨rest, by simp [insertBits, hrun, hrest]⟩

/-- Of the bits driven for some data, a receiver takes for the first of them those that are driven for these alone. -/
theorem takeLineBits_prefix (prev : Bool) (run : Nat) (bits more : List Bool) (beyond : List Bool) :
    takeLineBits prev run bits.length (insertBits prev run (bits ++ more) ++ beyond) = insertBits prev run bits := by
  obtain ⟨rest, hrest⟩ := insertBits_append bits more prev run
  rw [hrest, List.append_assoc, takeLineBits_insertBits]

/-- A receiver that waits for more data bits than are driven takes all bits there are. -/
theorem takeLineBits_short (bits : List Bool) : ∀ (prev : Bool) (run n : Nat), bits.length ≤ n →
    takeLineBits prev run n (insertBits prev run bits) = insertBits prev run bits := by
  induction bits with
  | nil =>
    intro prev run n _
    by_cases hrun : run = 5 <;> simp [insertBits, hrun, takeLineBits]
  | cons b bits ih =>
    intro prev run n hn
    obtain ⟨m, rfl⟩ : ∃ m, n = m + 1 := ⟨n - 1, by simp at hn; omega⟩
    have hm : bits.length ≤ m := by simpa using hn
    by_cases hrun : run = 5
    · subst hrun
      simp [insertBits, takeLineBits, ih _ _ m hm]
    · simp [insertBits, hrun, takeLineBits, ih _ _ m hm]

/-- Removal undoes insertion, and finds no coding error. -/
theorem removeBits_insertBits (bits : List Bool) : ∀ (prev : Bool) (run : Nat),
    removeBits prev run (insertBits prev run bits) = some bits := by
  induction bits with
  | nil =>
    intro prev run
    by_cases hrun : run = 5 <;> simp [insertBits, hrun, removeBits]
  | cons b bits ih =>
    intro prev run
    by_cases hrun : run = 5
    · subst hrun
      simp [insertBits, removeBits, ih]
    · simp [insertBits, hrun, removeBits, ih]

theorem byteOfBits_bits (b : Byte) :
    byteOfBits (b.getLsbD 7) (b.getLsbD 6) (b.getLsbD 5) (b.getLsbD 4) (b.getLsbD 3) (b.getLsbD 2) (b.getLsbD 1)
      (b.getLsbD 0) = b := by
  revert b
  decide

theorem bytesOfBits_bitsOfByte : ∀ bytes : List Byte, bytesOfBits (bytes.flatMap bitsOfByte) = some bytes
  | [] => rfl
  | b :: bytes => by
    simp only [List.flatMap_cons, bitsOfByte, List.cons_append, List.nil_append, bytesOfBits,
      bytesOfBits_bitsOfByte bytes, Option.map_some, byteOfBits_bits]

theorem length_flatMap_bitsOfByte (bytes : List Byte) : (bytes.flatMap bitsOfByte).length = 8 * bytes.length := by
  simp [List.length_flatMap, bitsOfByte, Nat.mul_comm]

/-- The bits that a sender drives for some bytes after the frame-start bit. -/
abbrev lineBits (bytes : List Byte) : List Bool := insertBits false 1 (bytes.flatMap bitsOfByte)

theorem takeLineBits_lineBits (bytes more : List Byte) (beyond : List Bool) :
    takeLineBits false 1 (8 * bytes.length) (lineBits (bytes ++ more) ++ beyond) = lineBits bytes := by
  rw [← length_flatMap_bitsOfByte, lineBits, List.flatMap_append, takeLineBits_prefix]

theorem removeBits_lineBits (bytes : List Byte) : (removeBits false 1 (lineBits bytes)).bind bytesOfBits = some bytes := by
  rw [removeBits_insertBits]
  exact bytesOfBits_bitsOfByte bytes

theorem bytesOfLevels_levelsOfBytes (bytes : List Byte) : bytesOfLevels (levelsOfBytes bytes) = some bytes := by
  simp only [levelsOfBytes, bytesOfLevels, List.map_map]
  rw [show bitOfLevel ∘ levelOfBit = id from funext bitOfLevel_levelOfBit, List.map_id]
  exact removeBits_lineBits bytes

/-! ### Where a receiver ends the frame (05 R87) -/

section
variable {bytes : List Byte} (hheader : 5 ≤ bytes.length)
include hheader

theorem lengthField_lineBits (beyond : List Bool) :
    lengthField (lineBits bytes ++ beyond) = (bytes.getD 4 0).toNat := by
  have htake := takeLineBits_lineBits (bytes.take 5) (bytes.drop 5) beyond
  rw [List.take_append_drop, List.length_take_of_le hheader] at htake
  simp only [lengthField, htake, removeBits_lineBits]
  simp [List.getD_eq_getElem?_getD]

/-- The receiver takes what its copy's length field tells it to wait for. -/
theorem heardFrame_levelsOfBytes (beyond : List Level) :
    heardFrame (levelsOfBytes bytes ++ beyond) =
      .dominant :: (takeLineBits false 1 (8 * (7 + min 96 (bytes.getD 4 0).toNat))
        (lineBits bytes ++ beyond.map bitOfLevel)).map levelOfBit := by
  have hbits : ((lineBits bytes).map levelOfBit ++ beyond).map bitOfLevel
      = lineBits bytes ++ beyond.map bitOfLevel := by
    rw [List.map_append, List.map_map, show bitOfLevel ∘ levelOfBit = id from funext bitOfLevel_levelOfBit, List.map_id]
  simp only [levelsOfBytes, List.cons_append, heardFrame, hbits, lengthField_lineBits hheader]

/-- A copy that reaches the end its length field tells is taken whole, and nothing beyond it. -/
theorem receiveFrame_of_full (limit : Nat) (beyond : List Level)
    (hlength : bytes.length = 7 + min 96 (bytes.getD 4 0).toNat) :
    receiveFrame limit (levelsOfBytes bytes ++ beyond) = (crcChecked bytes).bind (decodeFrame limit) := by
  have htake := takeLineBits_lineBits bytes [] (beyond.map bitOfLevel)
  rw [List.append_nil] at htake
  have hheard : heardFrame (levelsOfBytes bytes ++ beyond) = levelsOfBytes bytes := by
    rw [heardFrame_levelsOfBytes hheader, ← hlength, htake]
    rfl
  rw [receiveFrame, hheard, bytesOfLevels_levelsOfBytes]
  rfl

/-- A copy that ends before its length field says it should is taken as far as it goes. -/
theorem receiveFrame_of_short (limit : Nat) (hlength : bytes.length < 7 + min 96 (bytes.getD 4 0).toNat) :
    receiveFrame limit (levelsOfBytes bytes) = (crcChecked bytes).bind (decodeFrame limit) := by
  have hheard : heardFrame (levelsOfBytes bytes) = levelsOfBytes bytes := by
    have h := heardFrame_levelsOfBytes hheader []
    rw [List.append_nil, List.map_nil, List.append_nil] at h
    rw [h, takeLineBits_short _ _ _ _ (by rw [length_flatMap_bitsOfByte]; omega)]
    rfl
  rw [receiveFrame, hheard, bytesOfLevels_levelsOfBytes]
  rfl

end

/-- Check 1 fails where the length field does not agree with the frame's end. -/
theorem crcChecked_of_length_ne {bytes : List Byte} (h : bytes.length ≠ 7 + (bytes.getD 4 0).toNat) :
    crcChecked bytes = none := by
  refine if_neg ?_
  rintro ⟨hlong, hfield, -⟩
  have hbody : (bytes.take (bytes.length - 2)).getD 4 0 = bytes.getD 4 0 := by
    rw [List.getD_eq_getElem?_getD, List.getElem?_take_of_lt (by omega), List.getD_eq_getElem?_getD]
  rw [hbody] at hfield
  omega

end Sys2Proof.Machine

namespace Sys2Proof.PeerLine
open Sys2Proof.Machine Sys2Proof.Safety

/-- Settles O14: the marks by the readback and by the four checks, and the frame's end by the length field. -/
theorem frameEndSetsTheMarks : Obligations.FrameEndSetsTheMarks := by
  refine ⟨fun levels s hr => ⟨fun f hline hsent => ?_, fun hline => ?_⟩, fun limit bytes beyond hheader => ?_⟩
  · refine ⟨_, execFrameEnd_sending levels hr hline hsent, rfl, ?_⟩
    exact Bool.and_eq_true_iff.trans (and_congr_right fun _ => readbackDiffers_iff _ _)
  · refine ⟨_, execFrameEnd_receiving levels hr hline, rfl, rfl, rfl, ?_, ?_⟩
    · exact Bool.and_eq_true_iff.trans (and_congr_right fun _ => decide_eq_true_iff)
    · exact Bool.and_eq_true_iff.trans (and_congr_right fun _ => s.receiverMarkE_iff _)
  · intro n
    refine ⟨fun hn hlength => ?_, fun hn hlength => ?_, fun hshort => ?_⟩
    · exact receiveFrame_of_full hheader limit beyond (by omega)
    · rw [receiveFrame_of_full hheader limit beyond (by omega), crcChecked_of_length_ne (by omega)]
      rfl
    · rw [receiveFrame_of_short hheader limit hshort, crcChecked_of_length_ne (by omega)]
      rfl

end Sys2Proof.PeerLine
end


section
/-! PROOFS. The end of a veto slot (03 R60 to R66): acceptance and veto, of another station's frame and of the own one,
at a station that takes part and at one that does not. -/
namespace Sys2Proof.Machine
open Sys2Proof.Safety

/-! ### The line after the slot (03 Table 3-1; log 10) -/

/-- What follows acceptance or veto: the line is left, and an ALIVE may be due (08 R140). -/
def State.slotEnded (s : State) (inPlace : Bool) : State := (s.withPli (s.pli.afterSlot inPlace)).settleAlive

theorem State.slotEnded_eq (s : State) (inPlace : Bool) :
    s.slotEnded inPlace = { s with pli := s.pli.afterSlot inPlace, sched := (s.slotEnded inPlace).sched } :=
  State.settleAlive_sched_only _

theorem State.slotEnded_settled {s u : State} (inPlace : Bool) (h : u.sched = s.sched) :
    SchedSettled s (u.slotEnded inPlace) :=
  State.settleAlive_settled h

theorem State.slotEnded_of_running {s : State} {n : Nat} (inPlace : Bool) (h : s.monitor.ownSilence = .running n) :
    s.slotEnded inPlace = s.withPli (s.pli.afterSlot inPlace) :=
  State.settleAlive_of_not_expired _ (by simp [h])

section
variable {s : State} (inPlace : Bool) (hr : s.resetHeld = false) (hline : s.pli.line = .veto)
include hr hline

theorem execVetoSlotEnd_accepts (hE : s.pli.markE = false) (hF : s.pli.markF = false) :
    execVetoSlotEnd false false inPlace s = .next (s.acceptFrame.slotEnded inPlace) := by
  refine (State.whenRunning_of_released s _ hr).trans ?_
  simp only [if_pos hline, hE, hF]
  rfl

theorem execVetoSlotEnd_vetoes {markE markF : Bool}
    (h : markE = true ∨ markF = true ∨ s.pli.markE = true ∨ s.pli.markF = true) :
    execVetoSlotEnd markE markF inPlace s = .next ((s.vetoFrame (markE || s.pli.markE)).slotEnded inPlace) := by
  have hmark : ((markE || s.pli.markE) || (markF || s.pli.markF)) = true := by
    simp only [Bool.or_eq_true]
    tauto
  refine (State.whenRunning_of_released s _ hr).trans ?_
  simp only [if_pos hline, if_pos hmark]
  rfl

end

/-! ### What the other blocks are told (06 R102, R105) -/

/-- What the Operations Unit is told at the end of the slot of what was on the line. -/
def OnLine.notices (e : NoticeEvent) : OnLine → List Notice
  | .item id => id.notices e
  | _ => []

theorem OnLine.notices_of_no_item {o : OnLine} (e : NoticeEvent) (h : ∀ id, o ≠ .item id) : o.notices e = [] := by
  cases o with
  | nothing | unlisted => rfl
  | item id => exact absurd rfl (h id)

section
variable (s : State)

theorem State.endNotice_eq (e : NoticeEvent) :
    s.endNotice e = { s with hand := { s.hand with notices := s.hand.notices ++ s.sched.onLine.notices e } } := by
  unfold State.endNotice
  cases s.sched.onLine with
  | nothing | unlisted => simp [OnLine.notices]
  | item id => exact s.noticeFor_eq id e

theorem toldAtEnd_eq (e : ItemEnd) : toldAtEnd s e = (s.sched.telling e <|> s.join.told) := by
  rw [Sched.telling_eq]
  unfold toldAtEnd
  split_ifs <;> rfl

/-- Nothing is told of what stands on no list. -/
theorem toldAtEnd_of_no_item (e : ItemEnd) (h : ∀ id, s.sched.onLine ≠ .item id) : toldAtEnd s e = s.join.told := by
  simp [toldAtEnd, h]

/-! ### Acceptance (03 R61) -/

theorem SenderState.established_eq (st : SenderState) :
    st.established = (decide (st = .member) || decide (st = .leaving)) := by
  cases st <;> rfl

/-- The frame accepted shows an established fabric to a station that takes part (09 R155). -/
def State.seesFabric : Bool :=
  s.pli.part && match s.pli.frame with
    | some f => f.senderState.established
    | none => false

theorem State.seeFabric_eq : s.seeFabric = { s with join := { s.join with latch := s.join.latch || s.seesFabric } } := by
  unfold State.seeFabric State.seesFabric
  cases s.pli.frame with
  | none => simp
  | some f => cases hsees : (s.pli.part && f.senderState.established) <;> simp [State.withJoin, hsees]

/-- An acceptance at every station that hears it, before the sender's own part of it. -/
def State.acceptHeard : State :=
  { s with
    pli := s.pli.accept
    intake := s.intake.accept s.pli.part s.pli.frame
    join := { s.join with latch := s.join.latch || s.seesFabric } }

theorem State.acceptHeard_of_frame {f : Frame} (h : s.pli.frame = some f) :
    s.acceptHeard = { s with
      pli := { s.pli with givenVeto := 0, origin := f.sender, synced := true }
      intake := s.intake.accept s.pli.part (some f)
      join := { s.join with
        latch := s.join.latch || (s.pli.part && (f.senderState = .member || f.senderState = .leaving)) } } := by
  simp only [State.acceptHeard, State.seesFabric, Pli.accept, h, SenderState.established_eq]

theorem State.acceptHeard_of_no_frame (h : s.pli.frame = none) :
    s.acceptHeard = { s with
      pli := { s.pli with givenVeto := 0, origin := s.pli.winner, synced := false }
      intake := s.intake.accept s.pli.part none } := by
  simp only [State.acceptHeard, State.seesFabric, Pli.accept, h, Bool.and_false, Bool.or_false]

theorem State.acceptFrame_eq :
    s.acceptFrame = if s.pli.sent = none then s.acceptHeard
      else if s.pli.part then s.acceptHeard.ownAccepted else s.acceptHeard.releaseLine := by
  simp only [State.acceptFrame, State.seeFabric_eq]
  rfl

theorem Sched.accepted_eq (c : Sched) :
    c.accepted = match c.onLine with
      | .item id => itemGone (offLine c) id
      | _ => offLine c := by
  simp only [Sched.accepted, Sched.take_eq_itemGone]
  rfl

theorem State.ownAccepted_eq :
    s.ownAccepted = { s with
      pli := { s.pli with ownVeto := 0 }
      sched := s.sched.accepted
      monitor := { s.monitor with ownSilence := .running s.period }
      join := { s.join with told := toldAtEnd s .accepted }
      hand := { s.hand with notices := s.hand.notices ++ s.sched.onLine.notices .accepted } } := by
  simp only [State.ownAccepted, State.endNotice_eq, toldAtEnd_eq]
  rfl

/-! ### Veto (03 R62 to R66) -/

theorem State.ownVetoed_eq :
    s.ownVetoed = { s with
      sched := s.sched.vetoed
      join := { s.join with told := toldAtEnd s .removed }
      hand := { s.hand with
        notices := s.hand.notices ++ s.sched.onLine.notices (.vetoed s.sched.rescinded)
        itemRemoved := s.hand.itemRemoved
          || (s.sched.rescinded && decide (s.sched.onLine = .item (.control .membership))) } } := by
  simp only [State.ownVetoed, State.endNotice_eq, toldAtEnd_eq]
  rfl

end

theorem Sched.vetoed_of_no_item {c : Sched} (h : ∀ id, c.onLine ≠ .item id) : c.vetoed = offLine c := by
  unfold Sched.vetoed
  split
  · next id hid => exact absurd hid (h id)
  · rfl

section
variable {c : Sched} {id : ItemId} (h : c.onLine = .item id)
include h

theorem Sched.vetoed_rescinded (hres : c.rescinded = true) : c.vetoed = itemGone (offLine c) id := by
  simp only [Sched.vetoed, h, if_pos hres, Sched.take_eq_itemGone]
  rfl

theorem Sched.vetoed_kept (hres : c.rescinded = false) (hheld : c.held = none) :
    c.vetoed = { offLine c with retry := some id } := by
  simp only [Sched.vetoed, h, hres, hheld]
  rfl

theorem Sched.vetoed_replaced {k : MembershipKind} (hres : c.rescinded = false) (hheld : c.held = some k) :
    c.vetoed = { offLine c with
      retry := some id
      control := c.control.map fun i => if i.purpose = .membership then .membership k else i } := by
  simp only [Sched.vetoed, h, hres, hheld]
  rfl

end

section
variable (s : State)

/-- The withdrawal that waits after a counted veto of an own frame (03 R64, R66). -/
def State.ownWithdrawal : Option DropReason :=
  if s.pli.ownVeto.toNat + 1 = 16 then (s.hand.withdrawal <|> some .withdrawnTx) else s.hand.withdrawal

/-- The withdrawal that waits after a counted veto that this station gave (03 R65, R66). -/
def State.givenWithdrawal : Option DropReason :=
  if s.pli.givenVeto.toNat + 1 = 8 then (s.hand.withdrawal <|> some .withdrawnRx) else s.hand.withdrawal

theorem State.countOwnVeto_eq :
    s.countOwnVeto = { s with
      pli := { s.pli with ownVeto := s.pli.ownVeto + 1 }
      hand := { s.hand with withdrawal := s.ownWithdrawal } } := by
  unfold State.countOwnVeto State.ownWithdrawal
  split_ifs <;> rfl

theorem State.countGivenVeto_eq :
    s.countGivenVeto = { s with
      pli := { s.pli with givenVeto := s.pli.givenVeto + 1 }
      hand := { s.hand with withdrawal := s.givenWithdrawal } } := by
  unfold State.countGivenVeto State.givenWithdrawal
  split_ifs <;> rfl

/-- The count after a veto of an own frame, which counts where E was heard (03 R62). -/
def State.ownVetoAfter (counted : Bool) : BitVec 4 := if counted then s.pli.ownVeto + 1 else s.pli.ownVeto

/-- The withdrawal that waits after a veto of an own frame. -/
def State.withdrawalAfter (counted : Bool) : Option DropReason := if counted then s.ownWithdrawal else s.hand.withdrawal

theorem State.vetoFrame_own {f : Frame} (e : Bool) (hsent : s.pli.sent = some f) (hpart : s.pli.part = true) :
    s.vetoFrame e = { s with
      pli := { s.pli with ownVeto := s.ownVetoAfter e }
      sched := s.sched.vetoed
      join := { s.join with told := toldAtEnd s .removed }
      hand := { s.hand with
        withdrawal := s.withdrawalAfter e
        notices := s.hand.notices ++ s.sched.onLine.notices (.vetoed s.sched.rescinded)
        itemRemoved := s.hand.itemRemoved
          || (s.sched.rescinded && decide (s.sched.onLine = .item (.control .membership))) } } := by
  have hown : s.pli.sent ≠ none := by simp [hsent]
  rw [State.vetoFrame, if_neg hown, if_pos hpart, State.countOwnVeto_eq, State.ownVetoed_eq]
  cases e <;> rfl

/-- A list item was on the line. -/
theorem State.vetoFrame_item {f : Frame} {id : ItemId} (e : Bool) (hsent : s.pli.sent = some f)
    (hpart : s.pli.part = true) (hid : s.sched.onLine = .item id) :
    s.vetoFrame e = { s with
      pli := { s.pli with ownVeto := s.ownVetoAfter e }
      sched := s.sched.vetoed
      join := { s.join with told := toldAtEnd s .removed }
      hand := { s.hand with
        withdrawal := s.withdrawalAfter e
        notices := s.hand.notices ++ id.notices (.vetoed s.sched.rescinded)
        itemRemoved := s.hand.itemRemoved || (s.sched.rescinded && decide (id = .control .membership)) } } := by
  rw [s.vetoFrame_own e hsent hpart, hid]
  simp only [OnLine.item.injEq]
  rfl

/-- The ALIVE of 03 R54, which stands on no list, was on the line. -/
theorem State.vetoFrame_no_item {f : Frame} (e : Bool) (hsent : s.pli.sent = some f) (hpart : s.pli.part = true)
    (hno : ∀ id, s.sched.onLine ≠ .item id) :
    s.vetoFrame e = { s with
      pli := { s.pli with ownVeto := s.ownVetoAfter e }
      sched := offLine s.sched
      hand := { s.hand with withdrawal := s.withdrawalAfter e } } := by
  rw [s.vetoFrame_own e hsent hpart, toldAtEnd_of_no_item s .removed hno, Sched.vetoed_of_no_item hno,
    OnLine.notices_of_no_item _ hno]
  simp [hno]

theorem State.ownVetoCounted {t : State} {e : Bool} {counted : Prop} (hcounted : e = true ↔ counted)
    (hown : t.pli.ownVeto = s.ownVetoAfter e) (hwithdrawal : t.hand.withdrawal = s.withdrawalAfter e) :
    OwnVetoCounted s t counted := by
  unfold OwnVetoCounted
  rw [hown, hwithdrawal, ← hcounted, State.ownVetoAfter, State.withdrawalAfter, State.ownWithdrawal]
  cases e with
  | false => simp
  | true =>
    simp only [if_true]
    refine ⟨fun hnot => absurd trivial hnot, fun _ hbelow => ⟨?_, if_neg hbelow.ne⟩, fun _ hlimit => ?_⟩
    · rw [BitVec.toNat_add]
      exact Nat.mod_eq_of_lt hbelow
    · rw [if_pos hlimit]
      cases s.hand.withdrawal <;> rfl

end

end Sys2Proof.Machine

namespace Sys2Proof.PeerLine
open Sys2Proof.Machine Sys2Proof.Safety

/-- Settles O15: a frame heard is accepted without a sender's part in it. -/
theorem acceptanceOfAnotherStationsFrame : Obligations.AcceptanceOfAnotherStationsFrame := by
  intro inPlace s hr hline hsent hE hF
  have haccept : s.acceptFrame = s.acceptHeard := by rw [State.acceptFrame_eq, if_pos hsent]
  refine ⟨_, execVetoSlotEnd_accepts inPlace hr hline hE hF, State.slotEnded_settled inPlace (by rw [haccept]; rfl), ?_⟩
  rw [haccept, State.slotEnded_eq]
  cases hcopy : s.pli.copy with
  | none =>
    have hframe : s.pli.frame = none := by simp [Pli.frame, hsent, hcopy]
    rw [State.acceptHeard_of_no_frame s hframe]
    simp [Pli.afterSlot, Intake.accept, hsent, hE, hF]
  | some f =>
    have hframe : s.pli.frame = some f := by simp [Pli.frame, hsent, hcopy]
    rw [State.acceptHeard_of_frame s hframe]
    simp [Pli.afterSlot, Intake.accept, hsent, hE, hF]

/-- Settles O16: the sender's part comes after what every station that hears the slot does. -/
theorem acceptanceOfTheOwnFrame : Obligations.AcceptanceOfTheOwnFrame := by
  intro inPlace s f hr hline hsent hE hF
  have hown : s.pli.sent ≠ none := by simp [hsent]
  have hheard := s.acceptHeard_of_frame (f := f) (by simp [Pli.frame, hsent])
  have hexec : exec (.vetoSlotEnd false false inPlace) s = .next (s.acceptFrame.slotEnded inPlace) :=
    execVetoSlotEnd_accepts inPlace hr hline hE hF
  refine ⟨fun hpart => ?_, fun hpart => ?_⟩
  · have haccept : s.acceptFrame = s.acceptHeard.ownAccepted := by
      rw [State.acceptFrame_eq, if_neg hown, if_pos hpart]
    rw [hexec, haccept, State.slotEnded_of_running inPlace rfl, State.ownAccepted_eq, hheard, Sched.accepted_eq]
    simp only [State.withPli, Pli.afterSlot, Intake.accept, hpart, hE, hF]
    cases s.sched.onLine with
    | nothing | unlisted => rfl
    | item id => cases id <;> rfl
  · have haccept : s.acceptFrame = s.acceptHeard.releaseLine := by
      rw [State.acceptFrame_eq, if_neg hown, if_neg (by simp [hpart])]
    refine ⟨_, hexec, State.slotEnded_settled inPlace (by rw [haccept]; rfl), ?_⟩
    rw [haccept, State.slotEnded_eq, hheard]
    simp [State.releaseLine, State.withSched, Pli.afterSlot, Intake.accept, hpart, hE, hF]

/-- Settles O17: the given-veto count and its withdrawal are all that a veto of another's frame moves. -/
theorem vetoOfAnotherStationsFrame : Obligations.VetoOfAnotherStationsFrame := by
  intro markE markF inPlace s hr hline hsent hmark
  by_cases hgiven : s.pli.part = true ∧ s.pli.markE = true
  · have hveto (e : Bool) : s.vetoFrame e = s.countGivenVeto := by simp [State.vetoFrame, hsent, hgiven]
    refine ⟨_, execVetoSlotEnd_vetoes inPlace hr hline hmark, ?_⟩
    rw [hveto, s.countGivenVeto_eq]
    refine ⟨State.slotEnded_settled inPlace rfl, ?_, fun hnot => absurd hgiven hnot, fun _ _ hbelow => ?_,
      fun _ _ hlimit hnone => ?_⟩
    · rw [State.slotEnded_eq]
      simp [Pli.afterSlot, hsent]
    · rw [State.slotEnded_eq]
      exact ⟨(BitVec.toNat_add _ _).trans (Nat.mod_eq_of_lt hbelow), if_neg hbelow.ne⟩
    · rw [State.slotEnded_eq]
      exact (if_pos hlimit).trans (by rw [hnone]; rfl)
  · have hveto (e : Bool) : s.vetoFrame e = s := by simp [State.vetoFrame, hsent, hgiven]
    refine ⟨_, execVetoSlotEnd_vetoes inPlace hr hline hmark, ?_⟩
    rw [hveto]
    refine ⟨State.slotEnded_settled inPlace rfl, ?_, fun _ => ?_, fun hpart hE => absurd ⟨hpart, hE⟩ hgiven,
      fun hpart hE => absurd ⟨hpart, hE⟩ hgiven⟩
    · rw [State.slotEnded_eq]
      simp [Pli.afterSlot, hsent]
    · rw [State.slotEnded_eq]
      exact ⟨rfl, rfl⟩

/-- Settles O18: the item's fate at the scheduler and the count, at a sender that takes part. -/
theorem vetoOfTheOwnFrame : Obligations.VetoOfTheOwnFrame := by
  intro markE markF inPlace s f hr hline hsent hmark heardE line
  have hheard : (markE || s.pli.markE) = true ↔ heardE := Bool.or_eq_true_iff
  refine ⟨_, execVetoSlotEnd_vetoes inPlace hr hline hmark, fun id hpart hid => ?_, fun hpart hno => ?_,
    fun hpart => ?_⟩
  · rw [s.vetoFrame_item _ hsent hpart hid]
    refine ⟨?_, ?_, fun hres hheld => ?_, fun k hres hheld => ?_, fun hres => ?_⟩
    · rw [State.slotEnded_eq]
      rfl
    · rw [State.slotEnded_eq]
      exact s.ownVetoCounted hheard rfl rfl
    · exact State.slotEnded_settled inPlace (Sched.vetoed_kept hid hres hheld)
    · exact State.slotEnded_settled inPlace (Sched.vetoed_replaced hid hres hheld)
    · exact State.slotEnded_settled inPlace (Sched.vetoed_rescinded hid hres)
  · rw [s.vetoFrame_no_item _ hsent hpart hno]
    refine ⟨?_, ?_, State.slotEnded_settled inPlace rfl⟩
    · rw [State.slotEnded_eq]
      rfl
    · rw [State.slotEnded_eq]
      exact s.ownVetoCounted hheard rfl rfl
  · have hveto (e : Bool) : s.vetoFrame e = s.releaseLine := by simp [State.vetoFrame, hsent, hpart]
    rw [hveto]
    refine ⟨?_, State.slotEnded_settled inPlace rfl⟩
    rw [State.slotEnded_eq]
    rfl

end Sys2Proof.PeerLine
end


section
/-! PROOFS. The expiries of the idle measure, of own silence, of isolation and of the rejoin timer (03 R57, 08 R139,
R140, R146, R147, 09 R154, R174). -/
namespace Sys2Proof.Machine
open Sys2Proof.Safety

/-- With the own-silence counter EXPIRED, the ALIVE is queued exactly where the scheduler is idle (08 R140). -/
theorem State.settleAlive_of_expired {s : State} (h : s.monitor.ownSilence = .expired) :
    s.settleAlive =
      { s with
        sched :=
          if s.sched.candidate s.intake.queue.isEmpty = none ∧ s.sched.onLine = .nothing then
            { s.sched with control := s.sched.control ++ [.alive] }
          else s.sched } := by
  rw [State.settleAlive_sched_only, State.settleAlive_sched]
  simp only [h, true_and]

theorem State.setLone_true (s : State) :
    s.setLone true = { s with
      monitor := { s.monitor with lone := true }
      port := if s.monitor.lone then s.port else { s.port with attention := s.port.attention ||| 8 } } := by
  unfold State.setLone
  cases s.monitor.lone <;> rfl

/-- OUT and JOINING are different states to the host, so the entry sets STATE. -/
theorem State.enterJoining_of_out {s : State} (h : s.join.state = .out) :
    s.enterJoining = { s with
      join := { s.join with state := .joining .sendJoin, latch := false, rejoin := .stopped }
      port := { s.port with attention := s.port.attention ||| 1 }
      sched := s.sched.queueControl (.membership .join)
      monitor := { s.monitor with ownSilence := .running s.period } } := by
  have hcode : s.join.state.code ≠ StationState.code (.joining .sendJoin) := by simp [h, StationState.code]
  simp only [State.enterJoining, State.enter, if_neg hcode, State.queueMembership, State.queueControl,
    State.loadOwnSilence, State.period, State.withSched, State.withJoin, State.withMonitor, State.attend, State.withPort,
    HostPort.raise, attState]

end Sys2Proof.Machine

namespace Sys2Proof.PeerLine
open Sys2Proof.Machine Sys2Proof.Safety

/-- Settles O6: each expiry that is due is taken, and what it sets is all that changes. -/
theorem counterExpiriesTakeEffect : Obligations.CounterExpiriesTakeEffect := by
  refine ⟨fun s hr hdue => ?_, fun s hr hdue => ?_, fun s hr hdue hdone => ?_, fun s hr hdue hout => ?_⟩
  · exact (State.whenRunning_of_released s _ hr).trans (congrArg _ (if_pos hdue))
  · refine (State.whenRunning_of_released s _ hr).trans (congrArg _ ((if_pos hdue).trans ?_))
    exact State.settleAlive_of_expired rfl
  · obtain ⟨hown, hbelow⟩ := hdone
    have hguard := And.intro hdue (And.intro hown ((s.monitor.dueBelow_eq_false_iff 16).2 hbelow))
    refine (State.whenRunning_of_released s _ hr).trans (congrArg _ ((if_pos hguard).trans ?_))
    exact State.setLone_true _
  · refine (State.whenRunning_of_released s _ hr).trans (congrArg _ ((if_pos ⟨hdue, hout⟩).trans ?_))
    exact State.enterJoining_of_out hout

end Sys2Proof.PeerLine
end


section
/-! PROOFS. The apply queue and the line (04 R71, 03 R50 to R60): where a frame may be appended, what the commands
that move the line make of it, and that the other blocks leave both alone. -/
namespace Sys2Proof.Machine
open Sys2Proof.Safety

/-- The apply queue, and what of the line decides whether a frame may be appended to it. -/
structure QueueView where
  line : LineState
  ownSlot : Option Bool
  part : Bool
  markF : Bool
  queue : List Frame

def State.queueView (s : State) : QueueView :=
  ⟨s.pli.line, s.pli.ownSlot, s.pli.part, s.pli.markF, s.intake.queue⟩

namespace State
variable (s : State)

/-! ### The named updates of State -/

@[simp] theorem queueView_withSched (x : Sched) : (s.withSched x).queueView = s.queueView := rfl
@[simp] theorem queueView_withOps (x : OpsUnit) : (s.withOps x).queueView = s.queueView := rfl
@[simp] theorem queueView_withMonitor (x : Monitor) : (s.withMonitor x).queueView = s.queueView := rfl
@[simp] theorem queueView_withJoin (x : JoinControl) : (s.withJoin x).queueView = s.queueView := rfl
@[simp] theorem queueView_withPort (x : HostPort) : (s.withPort x).queueView = s.queueView := rfl
@[simp] theorem queueView_withHand (x : HandOvers) : (s.withHand x).queueView = s.queueView := rfl

theorem queueView_withPli (x : Pli) :
    (s.withPli x).queueView = { s.queueView with line := x.line, ownSlot := x.ownSlot, part := x.part, markF := x.markF } :=
  rfl

@[simp] theorem queueView_ite (c : Prop) [Decidable c] (a b : State) :
    (if c then a else b).queueView = if c then a.queueView else b.queueView := apply_ite queueView c a b

/-! ### Operations of the other blocks -/

@[simp] theorem queueView_popNotice : s.popNotice.queueView = s.queueView := rfl
@[simp] theorem queueView_popOps : s.popOps.queueView = s.queueView := rfl
@[simp] theorem queueView_popJoin : s.popJoin.queueView = s.queueView := rfl
@[simp] theorem queueView_setDropCause (r : DropReason) : (s.setDropCause r).queueView = s.queueView := rfl
@[simp] theorem queueView_loadJoinWait : s.loadJoinWait.queueView = s.queueView := rfl
@[simp] theorem queueView_undefinedRead : s.undefinedRead.queueView = s.queueView := rfl

@[simp] theorem queueView_beginWithdraw (o : Owner) (l : Byte) (c : WithdrawCause) :
    (s.beginWithdraw o l c).queueView = s.queueView := rfl

@[simp] theorem queueView_kindByte (b : Byte) : (s.kindByte b).queueView = s.queueView := by
  unfold kindByte
  split <;> rfl

@[simp] theorem queueView_argumentByte (b : Byte) : (s.argumentByte b).queueView = s.queueView := by
  unfold argumentByte
  split <;> rfl

@[simp] theorem queueView_replyByte : s.replyByte.queueView = s.queueView := by
  unfold replyByte
  split
  · rfl
  · rfl

@[simp] theorem queueView_enter (st : StationState) : (s.enter st).queueView = s.queueView := by
  unfold enter
  split <;> rfl

@[simp] theorem queueView_setLone (b : Bool) : (s.setLone b).queueView = s.queueView := by
  unfold setLone
  split <;> rfl

@[simp] theorem queueView_settleAlive : s.settleAlive.queueView = s.queueView := by
  unfold settleAlive
  split <;> rfl

@[simp] theorem queueView_complete (fits : Operation → Bool) (code : ResultCode) :
    (s.complete fits code).queueView = s.queueView := by
  unfold complete
  split <;> rfl

@[simp] theorem queueView_completeAcquire (o : Owner) (l : Byte) (code cancelCode : ResultCode) :
    (s.completeAcquire o l code cancelCode).queueView = s.queueView := by
  unfold completeAcquire
  split
  · rfl
  · split <;> simp

@[simp] theorem queueView_noticeOnLine (n : Notice) : (s.noticeOnLine n).queueView = s.queueView := by
  unfold noticeOnLine
  split <;> rfl

@[simp] theorem queueView_noticeAccepted (n : Notice) : (s.noticeAccepted n).queueView = s.queueView := by
  unfold noticeAccepted
  split <;> rfl

@[simp] theorem queueView_cancelOutbound (o : Owner) (l : Byte) : (s.cancelOutbound o l).queueView = s.queueView := by
  simp only [cancelOutbound]
  split
  · simp
  · rfl
  · rfl

@[simp] theorem queueView_noticeVetoed (n : Notice) (removed : Bool) :
    (s.noticeVetoed n removed).queueView = s.queueView := by
  unfold noticeVetoed
  split
  · unfold claimVetoed movePhase
    split
    · simp
    · split
      · split <;> simp
      · rfl
  · rfl
  · rfl

@[simp] theorem queueView_claimOutcome (o : Owner) (l : Byte) (out : ClaimOutcome) :
    (s.claimOutcome o l out).queueView = s.queueView := by
  unfold claimOutcome
  split
  · rfl
  · split
    · rfl
    · split
      · split <;> rfl
      · split <;> simp [addHold]

@[simp] theorem queueView_freeOutcome (o : Owner) (l : Byte) (out : FreeOutcome) :
    (s.freeOutcome o l out).queueView = s.queueView := by
  simp [freeOutcome]

@[simp] theorem queueView_withdrawOutcome (o : Owner) (l : Byte) (out : WithdrawOutcome) :
    (s.withdrawOutcome o l out).queueView = s.queueView := by
  unfold withdrawOutcome
  split
  · rfl
  · split
    · split
      · simp [addHold]
      · split <;> simp
    · rfl

@[simp] theorem queueView_grantNotice (o : Owner) (l : Byte) (m : Mode) :
    (s.grantNotice o l m).queueView = s.queueView := by
  unfold grantNotice
  split
  · rfl
  · split <;> simp [addHold, askRemoval]

@[simp] theorem queueView_testEviction (v : Station) : (s.testEviction v).queueView = s.queueView := by
  unfold testEviction
  split <;> rfl

/-- What each round of a loop leaves alone, the loop leaves alone. -/
theorem queueView_foldl {α : Type} {f : State → α → State} (h : ∀ s a, (f s a).queueView = s.queueView) (l : List α) :
    (l.foldl f s).queueView = s.queueView := by
  induction l generalizing s with
  | nil => rfl
  | cons a l ih => exact (ih (f s a)).trans (h s a)

@[simp] theorem queueView_removeEvicts (h : MonitorHandOver) : (s.removeEvicts h).queueView = s.queueView :=
  s.queueView_foldl (fun s v => by split <;> rfl) _

@[simp] theorem queueView_retest : s.retest.queueView = s.queueView :=
  s.queueView_foldl (fun s v => by split <;> simp) _

@[simp] theorem queueView_presenceHandOver (h : MonitorHandOver) : (s.presenceHandOver h).queueView = s.queueView := by
  have hclear (u : State) : (u.clearLone h).queueView = u.queueView := by
    unfold clearLone
    split <;> simp
  simp only [presenceHandOver]
  split <;> simp [hclear]

@[simp] theorem queueView_evaluateDuty (donor head : Option Station) :
    (s.evaluateDuty donor head).queueView = s.queueView := by
  simp only [evaluateDuty]
  split
  · rfl
  · split <;> rfl

@[simp] theorem queueView_becomeMember : s.becomeMember.queueView = s.queueView := by
  simp [becomeMember, completeJoin, setJoinWait]

@[simp] theorem queueView_sendJoin : s.sendJoin.queueView = s.queueView := by
  simp [sendJoin, setJoinWait, queueMembership, queueControl]

@[simp] theorem queueView_enterJoining : s.enterJoining.queueView = s.queueView := by
  simp [enterJoining, loadOwnSilence, queueMembership, queueControl]

@[simp] theorem queueView_turnToJoining : s.turnToJoining.queueView = s.queueView := by
  unfold turnToJoining
  split <;> simp

@[simp] theorem queueView_followRecord : s.followRecord.queueView = s.queueView := by
  unfold followRecord
  split <;> simp [loadJoinWait, setJoinWait]

@[simp] theorem queueView_earlySnapshot : s.earlySnapshot.queueView = s.queueView := by
  simp only [earlySnapshot]
  split <;> simp

@[simp] theorem queueView_discardReplica : s.discardReplica.queueView = s.queueView := by
  simp only [discardReplica]
  split <;> rfl

@[simp] theorem queueView_leaveMemberless : s.leaveMemberless.queueView = s.queueView := by
  simp only [leaveMemberless, queueView_sendJoin, queueView_withJoin, queueView_setLone, queueView_withMonitor]
  exact s.queueView_discardReplica

@[simp] theorem queueView_handOn (f : Frame) (a : Applied) : (s.handOn f a).queueView = s.queueView := by
  simp only [handOn]
  split <;> cases a.epoch <;> rfl

/-! ### Requests -/

/-- A request leaves alone what its decision leaves alone. -/
theorem queueView_takeRequest (k : RequestKind) {decision : List Byte → State → State}
    (h : ∀ bytes s, (decision bytes s).queueView = s.queueView) : (s.takeRequest k decision).queueView = s.queueView := by
  unfold takeRequest
  split
  · rfl
  · split
    · rfl
    · exact h _ _

variable (bytes : List Byte)

@[simp] theorem queueView_configure : (s.configure bytes).queueView = s.queueView := by
  simp only [configure, queueView_withPli, queueView_enter]
  rfl

@[simp] theorem queueView_decideSetup : (decideSetup bytes s).queueView = s.queueView := by
  unfold decideSetup
  split
  · rfl
  · split
    · exact s.queueView_configure bytes
    · rfl

@[simp] theorem queueView_decideJoin : (decideJoin bytes s).queueView = s.queueView := by
  unfold decideJoin
  split
  · simp
  · rfl

@[simp] theorem queueView_decideDetach : (decideDetach bytes s).queueView = s.queueView := by
  unfold decideDetach
  split
  · simp [startLeaving, flushOutbound, queueMembership, queueControl]
  · rfl

@[simp] theorem queueView_decideAcquire : (decideAcquire bytes s).queueView = s.queueView := by
  simp only [decideAcquire]
  split_ifs
  · rfl
  · rfl
  · rfl
  · unfold reenter newClaim
    split <;> split_ifs <;> rfl

@[simp] theorem queueView_decideRelease : (decideRelease bytes s).queueView = s.queueView := by
  unfold decideRelease releaseHeld
  split
  · rfl
  · split
    · rfl
    · split <;> rfl

@[simp] theorem queueView_decideCancel : (decideCancel bytes s).queueView = s.queueView := by
  unfold decideCancel cancelTarget
  split
  · rfl
  · split
    · rfl
    · split
      · rfl
      · split <;> simp [attach, beginWithdraw, setPhase, queueLock]

@[simp] theorem queueView_decideQueryLock : (decideQueryLock bytes s).queueView = s.queueView := by
  unfold decideQueryLock
  split <;> rfl

@[simp] theorem queueView_decideAck : (decideAck bytes s).queueView = s.queueView := by
  unfold decideAck
  split <;> rfl

end State
end Sys2Proof.Machine
end

section
/-! PROOFS. What one command can do to the apply queue (04 R71), said once for every command: it grows only where the
line, as it stood, allowed an append (03 R52, R60, R61). -/
namespace Sys2Proof.Machine
open Sys2Proof.Safety

/-! ### Where a frame may be appended -/

/-- An append may follow with no further look at the room in the queue: the own slot is asserted (03 R52), the own frame
is on the line, or the veto slot runs and this station takes part without the full mark (03 R60). -/
def QueueView.MayAppend (v : QueueView) : Prop :=
  match v.line with
  | .bidding => v.ownSlot = some true
  | .sending => True
  | .veto => v.part = true ∧ v.markF = false
  | .unobserved | .idle | .receiving | .vetoGap => False

/-- The invariant in these words: room for one frame wherever an append may follow. -/
theorem applyQueueBounded_iff (s : State) :
    ApplyQueueBounded s
      ↔ s.queueView.queue.length ≤ 4 ∧ (s.queueView.MayAppend → s.queueView.queue.length < 4) := by
  unfold ApplyQueueBounded QueueView.MayAppend State.queueView
  cases s.pli.line <;> simp

theorem State.queueView_slotEnded (s : State) (inPlace : Bool) :
    (s.slotEnded inPlace).queueView
      = ⟨if inPlace then .vetoGap else .unobserved, none, false, false, s.intake.queue⟩ :=
  State.queueView_settleAlive _

theorem State.not_mayAppend_slotEnded (s : State) (inPlace : Bool) : ¬ (s.slotEnded inPlace).queueView.MayAppend := by
  rw [State.queueView_slotEnded]
  cases inPlace <;> exact id

/-- What a command can make of the apply queue of s, and of the line. -/
inductive QueueStep (s : State) (v : QueueView) : Prop where
  /-- The queue does not grow, and an append that was not to come before needs room for it. -/
  | keeps : v.queue.length ≤ s.intake.queue.length →
      (v.MayAppend → s.queueView.MayAppend ∨ v.queue.length < 4) → QueueStep s v
  /-- The frame on the line is appended, and no other is to come. -/
  | appends : s.queueView.MayAppend → v.queue.length ≤ s.intake.queue.length + 1 → ¬ v.MayAppend → QueueStep s v

namespace QueueStep
variable {s t : State} {v : QueueView}

theorem applyQueueBounded (h : QueueStep s t.queueView) (hs : ApplyQueueBounded s) : ApplyQueueBounded t := by
  rw [applyQueueBounded_iff] at *
  obtain ⟨hle, hroom⟩ := hs
  cases h with
  | keeps hlen hmay =>
    refine ⟨hlen.trans hle, fun ht => ?_⟩
    rcases hmay ht with hs | hlt
    · exact hlen.trans_lt (hroom hs)
    · exact hlt
  | appends hs hlen hnot => exact ⟨hlen.trans (hroom hs), fun ht => absurd ht hnot⟩

theorem same : QueueStep s s.queueView := .keeps le_rfl .inl

theorem of_eq (h : v = s.queueView) : QueueStep s v := h ▸ same

/-- No append is to come. -/
theorem closes (hq : v.queue.length ≤ s.intake.queue.length) (h : ¬ v.MayAppend) : QueueStep s v :=
  .keeps hq fun hv => absurd hv h

/-- A command that takes place only while the part runs. -/
theorem of_whenRunning {f : State → State} (ht : s.whenRunning f = .next t) (h : QueueStep s (f s).queueView) :
    QueueStep s t.queueView := by
  cases hr : s.resetHeld
  · rw [State.whenRunning_of_released s f hr] at ht
    cases ht
    exact h
  · rw [State.whenRunning_of_held s f hr] at ht
    cases ht
    exact same

/-- A command that leaves the apply queue and the line alone. -/
theorem of_view {f : State → State} (ht : s.whenRunning f = .next t) (h : (f s).queueView = s.queueView) :
    QueueStep s t.queueView := of_whenRunning ht (of_eq h)

/-! ### Commands that move the line or the queue -/

/-- The head of the apply queue is taken; the line stands. -/
theorem of_applyHead {k : FrameKind} {effect : Frame → State → Option Applied}
    (ht : (s.whenRunning fun s => s.applyHead k effect) = .next t) : QueueStep s t.queueView := by
  refine of_whenRunning ht ?_
  have hpop : QueueStep s s.popFrame.queueView := .keeps s.intake.queue.tail_sublist.length_le .inl
  unfold State.applyHead
  split
  · split
    · split
      · rwa [State.queueView_settleAlive, State.queueView_handOn]
      · rwa [State.queueView_settleAlive]
    · exact same
  · exact same

theorem lineIdleGap (ht : execLineIdleGap s = .next t) : QueueStep s t.queueView := by
  refine of_whenRunning ht ?_
  split
  · exact closes le_rfl id
  · exact same

theorem startMark (source : MarkSource) (ht : execStartMark source s = .next t) : QueueStep s t.queueView := by
  refine of_whenRunning ht ?_
  split
  · exact closes le_rfl nofun
  · exact same

theorem joinWaitExpiry (ht : execJoinWaitExpiry s = .next t) : QueueStep s t.queueView := by
  refine of_view ht ?_
  split
  · split
    · split
      · simp
      · split <;> simp [State.queueMembership, State.queueControl, State.setJoinWait]
    · split <;> simp
    · rfl
  · rfl

/-- The own slot is asserted only with room in the queue (03 R52). -/
theorem ownSlotBegins (ht : execOwnSlotBegins s = .next t) : QueueStep s t.queueView := by
  refine of_whenRunning ht ?_
  split
  · next hline =>
    refine .keeps le_rfl fun h => .inr ?_
    have hbid : s.wouldBid = true := by
      simpa [State.queueView_withPli, QueueView.MayAppend, hline.1] using h
    obtain ⟨-, -, -, hroom⟩ := (State.wouldBid_iff s).1 hbid
    exact hroom
  · exact same

/-- The own bid can win only in a window in which the own slot was asserted. -/
theorem windowClose (slots : BitVec 16) (frameStart : Bool) (ht : execWindowClose slots frameStart s = .next t) :
    QueueStep s t.queueView := by
  refine of_whenRunning ht ?_
  have hempty : QueueStep s (s.withPli s.pli.closeEmpty).queueView := closes le_rfl id
  split
  · next hline =>
    split
    · exact hempty
    · split
      · next hwon =>
        have hslot : s.pli.ownSlot = some true := by
          obtain ⟨-, hstands⟩ := hwon
          simp only [State.bidStands, Bool.and_eq_true, decide_eq_true_eq] at hstands
          obtain ⟨⟨hslot, -⟩, -⟩ := hstands
          exact hslot
        have hmay : s.queueView.MayAppend := by
          simpa [QueueView.MayAppend, State.queueView, hline] using hslot
        have hqueue : s.winBid.queueView.queue = s.intake.queue := by
          obtain ⟨_, -, hkept⟩ := s.kept_winBid
          exact congrArg Kept.queue hkept
        exact .keeps (by rw [hqueue]) fun _ => .inl hmay
      · split
        · exact closes le_rfl id
        · exact hempty
  · exact same

/-- A receiver without room asserts the full mark. -/
theorem frameEnd (levels : List Level) (ht : execFrameEnd levels s = .next t) : QueueStep s t.queueView := by
  refine of_whenRunning ht ?_
  split
  · next hline _ =>
    refine .keeps le_rfl fun _ => .inl ?_
    simp [QueueView.MayAppend, State.queueView, hline]
  · refine .keeps le_rfl fun h => .inr ?_
    obtain ⟨hpart, hfull⟩ : s.partNow = true ∧ (s.partNow && decide (4 ≤ s.intake.queue.length)) = false := h
    show s.intake.queue.length < 4
    simpa [hpart] using hfull
  · exact same

/-- A veto slot that leaves the queue no longer than it was. -/
theorem slotEnded {u : State} (inPlace : Bool) (h : u.intake.queue.length ≤ s.intake.queue.length) :
    QueueStep s (u.slotEnded inPlace).queueView :=
  closes (by rwa [State.queueView_slotEnded]) (u.not_mayAppend_slotEnded inPlace)

/-- A frame is accepted only without the full mark, and appended only at a station that takes part. -/
theorem vetoSlotEnd (markE markF inPlace : Bool) (ht : execVetoSlotEnd markE markF inPlace s = .next t) :
    QueueStep s t.queueView := by
  refine of_whenRunning ht ?_
  split
  · next hline =>
    simp only
    split
    · exact slotEnded inPlace (congrArg (·.queue.length) (s.kept_vetoFrame _)).le
    · next hmarks =>
      have hqueue : s.acceptFrame.intake.queue = (s.intake.accept s.pli.part s.pli.frame).queue :=
        congrArg Kept.queue s.kept_acceptFrame
      have hfull : s.pli.markF = false := by
        simp only [Bool.or_eq_true, not_or, Bool.not_eq_true] at hmarks
        obtain ⟨-, -, hF⟩ := hmarks
        exact hF
      cases hpart : s.pli.part
      · refine slotEnded inPlace ?_
        rw [hqueue, hpart]
        exact le_rfl
      · refine .appends ?_ ?_ (s.acceptFrame.not_mayAppend_slotEnded inPlace)
        · simp [QueueView.MayAppend, State.queueView, hline, hpart, hfull]
        · change (s.acceptFrame.slotEnded inPlace).queueView.queue.length ≤ _
          rw [State.queueView_slotEnded]
          change s.acceptFrame.intake.queue.length ≤ _
          rw [hqueue, hpart]
          cases s.pli.frame <;> simp [Intake.accept]
  · exact same

/-- The drop empties the queue (09 R173). -/
theorem drop (ht : execDrop s = .next t) : QueueStep s t.queueView := by
  refine of_whenRunning ht ?_
  split
  · next r _ =>
    split
    · have hqueue : (s.drop r).queueView.queue = [] := congrArg Kept.queue (s.kept_drop r)
      exact .keeps (by simp [hqueue]) fun _ => .inr (by simp [hqueue])
    · exact same
  · exact same

theorem resetRelease (p : Straps) (ht : execResetRelease p s = .next t) : QueueStep s t.queueView := by
  rw [execResetRelease] at ht
  split at ht <;> cases ht
  · exact closes (Nat.zero_le _) id
  · exact same

end QueueStep

/-- What a command can do to the apply queue: the line's commands and the applications first, then those that leave
both alone. -/
theorem exec_queueStep {s t : State} (i : Instr) (ht : exec i s = .next t) : QueueStep s t.queueView := by
  unfold exec at ht
  cases i with
  | hardwareReset => cases ht; exact .closes le_rfl id
  | resetRelease p => exact .resetRelease p ht
  | ownSlotBegins => exact .ownSlotBegins ht
  | windowClose slots frameStart => exact .windowClose slots frameStart ht
  | frameEnd levels => exact .frameEnd levels ht
  | vetoSlotEnd markE markF inPlace => exact .vetoSlotEnd markE markF inPlace ht
  | drop => exact .drop ht
  | applyClaim | applyFree | applyWithdraw | applyJoin | applyFound | applyLeave | applyEvict | applyRefuse
  | applySnaphead | applySnapdata | applyAlive => exact .of_applyHead ht
  | startMark source => exact .startMark source ht
  | lineIdleGap => exact .lineIdleGap ht
  | joinWaitExpiry => exact .joinWaitExpiry ht
  | setup | join | detach | acquire | release | cancel | queryLock | ack =>
    exact .of_view ht (s.queueView_takeRequest _ (by simp))
  | queryMembers | queryStation => exact .of_view ht (s.queueView_takeRequest _ fun _ _ => rfl)
  | lockFrameVetoed =>
    refine .of_view ht ?_
    split
    · split <;> simp
    · rfl
  | idleMeasureExpiry | dominantPulse =>
    refine .of_view ht ?_
    split <;> rfl
  | tick x =>
    refine .of_view ht ?_
    split
    · cases x.source <;> rfl
    · rfl
  | waitTimerExpiry | ownSilenceExpiry | silenceCountdownExpiry | isolationExpiry | rejoinTimerExpiry | claimOutcome
  | freeOutcome | withdrawOutcome | grantNotice | lockFrameOnLine | lockFrameAccepted | ownJoinApplied
  | ownFoundApplied | otherFoundApplied | ownSnapheadTaken | ownSnapdataTaken | membershipItemRemoved | refuseTaken
  | ownLeaveApplied | evictNamingSelf | donorDutyEvaluation | presenceHandOver | kindByteWrite | argumentByteWrite
  | replyRead =>
    refine .of_view ht ?_
    split <;> simp

end Sys2Proof.Machine

namespace Sys2Proof.Intake
open Sys2Proof.Machine Sys2Proof.Safety

/-- Settles O54: the queue grows only at an acceptance, which follows a state with room. -/
theorem applyQueueStaysBounded : Obligations.ApplyQueueStaysBounded := by
  intro s t ht hs
  unfold step at ht
  split at ht
  · cases ht
    exact hs
  · exact (exec_queueStep _ ht).applyQueueBounded hs

end Sys2Proof.Intake
end


section
/-! PROOFS. What a list item goes out as at bid win (04 R80, R81): the queued payload, the own digest, or the frame of
a donor item for the head of the join list, with the entries that fit (05 R93). -/
namespace Sys2Proof.Machine
open Sys2Proof.Safety

/-! ### Items of the two lists -/

section
variable {s : State}

theorem State.bodyOf_control {p : Purpose} {i : ControlItem} (h : s.sched.controlItem p = some i) :
    s.bodyOf (.control p) = s.controlBody i := by
  simp [State.bodyOf, h]

theorem State.bodyOf_lock {k : LockKind} {o : Owner} {l : Byte} {i : LockItem}
    (h : s.sched.lockItem (.lock k o l) = some i) : s.bodyOf (.lock k o l) = i.body := by
  simp [State.bodyOf, h]

end

/-! ### The donor item (04 R81) -/

namespace Replica
variable {r : Replica}

theorem donorBody_of_no_joiner (h : r.joinList = []) : r.donorBody = .alive := by
  simp [donorBody, h]

section
variable {j : Station} {rest : List Station} {fr : FabricRecord} (hlist : r.joinList = j :: rest)
  (hfab : r.fabric = some fr)
include hlist hfab

theorem donorBody_refuseDue {reason : RefusalReason} (h : r.members[j].state = .refuseDue reason) :
    r.donorBody = .refuse j reason := by
  have hrecord : (r.record j).state = .refuseDue reason := h
  simp [donorBody, hlist, hfab, hrecord]

theorem donorBody_awaitsHead {c : Nat} (h : r.members[j].state = .joining false c) :
    r.donorBody = .snaphead ⟨j, fr.digest, fr.founder, r.members, r.joinList⟩ := by
  have hrecord : (r.record j).state = .joining false c := h
  simp [donorBody, hlist, hfab, hrecord, snapHead]

theorem donorBody_loading {c : Nat} (h : r.members[j].state = .joining true c) :
    r.donorBody = .snapdata j (BitVec.ofNat 8 c) (fillEntries c 94 (r.locks.drop c)) := by
  have hrecord : (r.record j).state = .joining true c := h
  simp [donorBody, hlist, hfab, hrecord, snapData, Config.payloadLimit]

end
end Replica

/-! ### The entries of a SNAPDATA (05 R93) -/

/-- The bytes of snapshot entries. -/
abbrev snapBytes (es : List SnapEntry) : List Byte := es.flatMap fun e => entryBytes e.lock e.entry

/-- The first entry goes in where it fits, and nothing after one that does not. -/
theorem fillEntries_cons (n room : Nat) (e : LockEntry) (locks : List LockEntry) :
    ((entryBytes (BitVec.ofNat 8 n) e).length ≤ room ∧ fillEntries n room (e :: locks)
        = ⟨BitVec.ofNat 8 n, e⟩ :: fillEntries (n + 1) (room - (entryBytes (BitVec.ofNat 8 n) e).length) locks)
      ∨ (room < (entryBytes (BitVec.ofNat 8 n) e).length ∧ fillEntries n room (e :: locks) = []) := by
  simp only [fillEntries]
  split
  · next hfits => exact .inl ⟨hfits, rfl⟩
  · next hnot => exact .inr ⟨not_le.1 hnot, rfl⟩

theorem length_fillEntries_le : ∀ (n room : Nat) (locks : List LockEntry),
    (fillEntries n room locks).length ≤ locks.length
  | _, _, [] => le_rfl
  | n, room, e :: locks => by
    rcases fillEntries_cons n room e locks with ⟨-, heq⟩ | ⟨-, heq⟩ <;> rw [heq]
    · exact Nat.succ_le_succ (length_fillEntries_le _ _ locks)
    · exact Nat.zero_le _

theorem fillEntries_getElem? : ∀ (n room : Nat) (locks : List LockEntry) (k : Nat) (e : SnapEntry),
    (fillEntries n room locks)[k]? = some e → e.lock = BitVec.ofNat 8 (n + k) ∧ locks[k]? = some e.entry
  | _, _, [], _, _, h => by cases h
  | n, room, e :: locks, k, x, h => by
    rcases fillEntries_cons n room e locks with ⟨-, heq⟩ | ⟨-, heq⟩ <;> rw [heq] at h
    · cases k with
      | zero => cases h; exact ⟨rfl, rfl⟩
      | succ k =>
        rw [← Nat.add_assoc, Nat.add_right_comm]
        exact fillEntries_getElem? (n + 1) _ locks k x h
    · cases h

theorem length_snapBytes_fillEntries_le : ∀ (n room : Nat) (locks : List LockEntry),
    (snapBytes (fillEntries n room locks)).length ≤ room
  | _, _, [] => Nat.zero_le _
  | n, room, e :: locks => by
    rcases fillEntries_cons n room e locks with ⟨hfits, heq⟩ | ⟨-, heq⟩ <;> rw [heq]
    · have hrest := length_snapBytes_fillEntries_le (n + 1) (room - (entryBytes (BitVec.ofNat 8 n) e).length) locks
      simp only [snapBytes, List.flatMap_cons, List.length_append] at hrest ⊢
      omega
    · exact Nat.zero_le _

/-- Where the entries stop before the table's end, the next does not fit. -/
theorem fillEntries_stops : ∀ (n room : Nat) (locks : List LockEntry) (next : LockEntry),
    locks[(fillEntries n room locks).length]? = some next →
    room < (snapBytes (fillEntries n room locks)).length
      + (entryBytes (BitVec.ofNat 8 (n + (fillEntries n room locks).length)) next).length
  | _, _, [], _, h => by cases h
  | n, room, e :: locks, next, h => by
    rcases fillEntries_cons n room e locks with ⟨hfits, heq⟩ | ⟨hover, heq⟩ <;> rw [heq] at h ⊢
    · have hrest := fillEntries_stops (n + 1) _ locks next h
      simp only [snapBytes, List.flatMap_cons, List.length_append, List.length_cons] at hrest ⊢
      rw [Nat.add_assoc n, Nat.add_comm 1] at hrest
      omega
    · cases h
      exact hover.trans_eq (Nat.zero_add _).symm

end Sys2Proof.Machine

namespace Sys2Proof.Intake
open Sys2Proof.Machine Sys2Proof.Safety

/-- Settles O13: an item's body by its list, the donor's by the record of the head, the entries by the table. -/
theorem listItemsFixTheFrame : Obligations.ListItemsFixTheFrame := by
  refine ⟨fun s => ⟨fun _ _ _ _ => State.bodyOf_lock, fun _ _ => State.bodyOf_lock, fun _ _ => State.bodyOf_lock,
    State.bodyOf_control, fun _ _ => State.bodyOf_control, State.bodyOf_control, State.bodyOf_control,
    State.bodyOf_control, fun hdonor => ?_⟩, fun n room locks => ?_⟩
  · rw [State.bodyOf_control hdonor]
    exact ⟨Replica.donorBody_of_no_joiner, fun j rest fr hlist hfab =>
      ⟨fun _ => Replica.donorBody_refuseDue hlist hfab, fun _ => Replica.donorBody_awaitsHead hlist hfab,
        fun _ => Replica.donorBody_loading hlist hfab⟩⟩
  · exact ⟨length_fillEntries_le n room locks, fillEntries_getElem? n room locks,
      length_snapBytes_fillEntries_le n room locks, fillEntries_stops n room locks⟩

end Sys2Proof.Intake
end

section
/-! PROOFS. The screen of an application and its counting step (04 R77, 02 R31, R37). -/
namespace Sys2Proof.Machine
open Sys2Proof.Safety

/-! ### The counting step (02 R31) -/

namespace Replica
variable {r : Replica} {v w : Station}

theorem countFrame_absent (h : r.members[v].state = .absent) : r.countFrame v = r := if_pos h

theorem countFrame_counted (h : r.members[v].state ≠ .absent) :
    (r.countFrame v).members[v] = { r.members[v] with count := r.members[v].count + 1 } := by
  have heq : r.countFrame v = r.setRecord v { r.members[v] with count := r.members[v].count + 1 } := if_neg h
  rw [heq]
  exact (getElem_set_station _ v v _).trans (if_pos rfl)

theorem countFrame_other (h : w ≠ v) : (r.countFrame v).members[w] = r.members[w] := by
  unfold countFrame
  split
  · rfl
  · exact (getElem_set_station _ v w _).trans (if_neg h)

end Replica

/-! ### The screens -/

section
variable {s : State} {f : Frame}

theorem State.screened_absent (own : List JoinHandOver) (effect : Replica → Applied) (hfab : s.replica.fabric ≠ none)
    (hs : s.replica.members[f.sender].state = .absent) : s.screened f own effect = none :=
  (if_pos (Option.isSome_iff_ne_none.2 hfab)).trans (if_pos hs)

theorem State.screened_unheld (own : List JoinHandOver) (effect : Replica → Applied) (hfab : s.replica.fabric = none) :
    s.screened f own effect =
      if f.sender = s.straps.station then some ⟨s.replica, none, none, [], own⟩ else none := by
  simp [State.screened, hfab, State.isOwn, Applied.plain]

theorem State.screenedDonor_absent (effect : Replica → Applied) (hs : s.replica.members[f.sender].state = .absent) :
    s.screenedDonor f effect = none := by
  have hrecord : (s.replica.record f.sender).state = .absent := hs
  simp [State.screenedDonor, hrecord]

theorem State.screenedDonor_ignored (effect : Replica → Applied)
    (hs : s.replica.members[f.sender].state.listed = true) :
    s.screenedDonor f effect = some (Applied.plain s.replica) := by
  have hrecord : (s.replica.record f.sender).state.listed = true := hs
  unfold State.screenedDonor
  split
  · next h => rw [h] at hrecord; cases hrecord
  · next h => rw [h] at hrecord; cases hrecord
  · rfl

/-! ### Frames that are neither JOIN nor FOUND -/

section
variable (hj : f.body.kind ≠ .join) (hf : f.body.kind ≠ .found)
include hj hf

theorem State.effectOf_absent (hfab : s.replica.fabric ≠ none) (hs : s.replica.members[f.sender].state = .absent) :
    s.effectOf f = none := by
  unfold State.effectOf
  cases hb : f.body
  case join => exact absurd (congrArg FrameBody.kind hb) hj
  case found => exact absurd (congrArg FrameBody.kind hb) hf
  case refuse | snaphead | snapdata =>
    exact (if_pos (Option.isSome_iff_ne_none.2 hfab)).trans (State.screenedDonor_absent _ hs)
  case leave => simp only [State.leaveEffect, State.screened_absent _ _ hfab hs]
  case alive | evict | claim | free | withdraw => exact State.screened_absent _ _ hfab hs

theorem State.effectOf_unheld_other (hfab : s.replica.fabric = none) (hs : f.sender ≠ s.straps.station)
    (hrefuse : f.body.kind ≠ .refuse) (hhead : f.body.kind ≠ .snaphead) : s.effectOf f = none := by
  unfold State.effectOf
  cases hb : f.body
  case join => exact absurd (congrArg FrameBody.kind hb) hj
  case found => exact absurd (congrArg FrameBody.kind hb) hf
  case refuse => exact absurd (congrArg FrameBody.kind hb) hrefuse
  case snaphead => exact absurd (congrArg FrameBody.kind hb) hhead
  case snapdata => simp [State.snapdataEffect, hfab, State.isOwn, hs]
  case leave => simp [State.leaveEffect, State.screened_unheld _ _ hfab, hs]
  case alive | evict | claim | free | withdraw => exact (State.screened_unheld _ _ hfab).trans (if_neg hs)

/-- An own frame is handed on without an effect; the own LEAVE is told to the Join Controller. -/
theorem State.effectOf_unheld_own (hfab : s.replica.fabric = none) (hs : f.sender = s.straps.station) :
    s.effectOf f =
      some ⟨s.replica, none, none, [], if f.body.kind = .leave then [.ownLeave] else []⟩ := by
  unfold State.effectOf
  cases hb : f.body
  case join => exact absurd (congrArg FrameBody.kind hb) hj
  case found => exact absurd (congrArg FrameBody.kind hb) hf
  case refuse => simp [State.refuseEffect, hfab, State.isOwn, hs, Applied.plain, FrameBody.kind]
  case snaphead => simp [State.snapheadEffect, hfab, State.isOwn, hs, Applied.plain, FrameBody.kind]
  case snapdata => simp [State.snapdataEffect, hfab, State.isOwn, hs, Applied.plain, FrameBody.kind]
  case leave => simp [State.leaveEffect, State.screened_unheld _ _ hfab, hs, State.isOwn, FrameBody.kind]
  case alive | evict | claim | free | withdraw => exact (State.screened_unheld _ _ hfab).trans (if_pos hs)

end

/-- A donor frame whose sender is not MEMBER is ignored at a fabric. -/
theorem State.effectOf_donor_ignored (hk : f.body.kind = .refuse ∨ f.body.kind = .snaphead ∨ f.body.kind = .snapdata)
    (hfab : s.replica.fabric ≠ none) (hs : s.replica.members[f.sender].state.listed = true) :
    s.effectOf f = some (Applied.plain s.replica) := by
  unfold State.effectOf
  cases hb : f.body
  case refuse | snaphead | snapdata =>
    exact (if_pos (Option.isSome_iff_ne_none.2 hfab)).trans (State.screenedDonor_ignored _ hs)
  all_goals simp [hb, FrameBody.kind] at hk

theorem State.effectOf_alive (hb : f.body = .alive) (hfab : s.replica.fabric ≠ none)
    (hs : s.replica.members[f.sender].state ≠ .absent) : s.effectOf f = some (Applied.plain s.replica) := by
  rw [State.effectOf, hb]
  exact State.screened_passed _ _ hfab hs

end
end Sys2Proof.Machine

namespace Sys2Proof.Intake
open Sys2Proof.Machine Sys2Proof.Safety

/-- Settles O30: the effect that each screen leaves of a frame, applied or discarded by the command of its kind. -/
theorem screenAndCountOfApplications : Obligations.ScreenAndCountOfApplications := by
  refine ⟨⟨fun s f rest htakes hb hfab hs => ?_, fun r v w => ?_⟩, fun s f rest htakes hj hf => ⟨?_, ?_, ?_⟩⟩
  · exact applyCommand_applied_plain (k := .alive) htakes (congrArg FrameBody.kind hb)
      (State.effectOf_alive (s := popped s rest) hb hfab hs)
  · exact ⟨Replica.countFrame_counted, Replica.countFrame_absent, Replica.countFrame_other⟩
  · intro h
    refine applyCommand_discards htakes rfl ?_
    rcases h with ⟨hfab, hs⟩ | ⟨hfab, hs, hrefuse, hhead⟩
    · exact State.effectOf_absent hj hf hfab hs
    · exact State.effectOf_unheld_other hj hf hfab hs hrefuse hhead
  · intro hfab hs hk
    exact applyCommand_applied_plain htakes rfl
      (State.effectOf_donor_ignored (s := popped s rest) hk hfab (RecordState.listed_iff.2 hs))
  · intro hfab hs
    exact applyCommand_applied_plain htakes rfl (State.effectOf_unheld_own (s := popped s rest) hj hf hfab hs)

end Sys2Proof.Intake
end

section
/-! PROOFS. A frame on the line passes check 1 at a receiver (05 R85 to R88), and its header and every payload of fixed
length carry their fields through check 2 (05 R89, R90, R94). -/
namespace Sys2Proof.Machine
open Sys2Proof.Safety

/-! ### Check 1 -/

@[simp] theorem length_wordBytes (w : Word16) : (wordBytes w).length = 2 := rfl

theorem length_frameBytes (f : Frame) : (frameBytes f).length = 5 + (payloadBytes f.body).length := by
  simp only [frameBytes, List.length_cons, List.length_append, length_wordBytes]
  omega

/-- The fifth byte of a header is the length field. -/
theorem frameBytes_lengthField (f : Frame) :
    (frameBytes f).getD 4 0 = BitVec.ofNat 8 (payloadBytes f.body).length := rfl

/-- Check 1 passes on the bytes of a frame whose payload fits. -/
theorem crcChecked_wireBytes {f : Frame} (hfits : (payloadBytes f.body).length ≤ 96) :
    crcChecked (wireBytes f) = some (frameBytes f) := by
  have hlen := length_frameBytes f
  have hn : (wireBytes f).length - 2 = (frameBytes f).length := by simp [wireBytes]
  have htake : (wireBytes f).take (frameBytes f).length = frameBytes f := List.take_left' rfl
  have hdrop : (wireBytes f).drop (frameBytes f).length = wordBytes (crc (frameBytes f)) := List.drop_left' rfl
  simp only [crcChecked, hn, htake, hdrop, frameBytes_lengthField]
  refine if_pos ⟨?_, ?_, ?_, trivial⟩
  · rw [wireBytes, List.length_append, length_wordBytes]
    omega
  · rw [BitVec.toNat_ofNat]
    omega
  · rw [hlen]
    exact (Nat.add_sub_cancel_left ..).trans_le hfits

/-- A receiver takes the levels of a frame whose payload fits to that frame's end, and makes check 2 on its bytes. -/
theorem receiveFrame_frameLevels (limit : Nat) {f : Frame} (hfits : (payloadBytes f.body).length ≤ 96) :
    receiveFrame limit (frameLevels f) = decodeFrame limit (frameBytes f) := by
  have hlen : (wireBytes f).length = 7 + (payloadBytes f.body).length := by
    rw [wireBytes, List.length_append, length_frameBytes, length_wordBytes]
    omega
  have hfield : ((wireBytes f).getD 4 0).toNat = (payloadBytes f.body).length := by
    change (BitVec.ofNat 8 (payloadBytes f.body).length).toNat = _
    rw [BitVec.toNat_ofNat]
    omega
  have hfull := receiveFrame_of_full (bytes := wireBytes f) (by omega) limit [] (by rw [hfield]; omega)
  rw [List.append_nil, crcChecked_wireBytes hfits] at hfull
  exact hfull

/-! ### The fields of a byte and of a word -/

theorem lowNibble_nibbles (hi : Nat) (lo : Fin 16) : lowNibble (nibbles hi lo.val) = lo := by
  simp only [lowNibble, nibbles, Fin.ext_iff, Fin.ofNat, BitVec.toNat_ofNat]
  omega

theorem highNibble_nibbles {hi lo : Nat} (hhi : hi < 16) (hlo : lo < 16) : (highNibble (nibbles hi lo)).val = hi := by
  simp only [highNibble, nibbles, Fin.ofNat, BitVec.toNat_ofNat]
  omega

theorem highBitsClear_nibbles : ∀ lo : Fin 16, highBitsClear (nibbles 0 lo.val) = true := by decide

theorem wordOf_extractLsb (w : Word16) : wordOf (w.extractLsb' 8 8) (w.extractLsb' 0 8) = w :=
  (BitVec.extractLsb'_append_extractLsb'_eq_extractLsb' (start₁ := 0) rfl).trans BitVec.extractLsb'_eq_self

theorem senderState_byte (st : SenderState) :
    BitVec.ofNat 8 (64 * st.code) &&& 0x3F = 0
      ∧ SenderState.ofCode ((BitVec.ofNat 8 (64 * st.code)).toNat / 64) = st := by
  cases st <;> decide

theorem refusalReason_byte (r : RefusalReason) :
    (BitVec.ofNat 8 r.code).toNat ≤ 3 ∧ RefusalReason.ofCode (BitVec.ofNat 8 r.code).toNat = r := by
  cases r <;> decide

theorem claimByte_fields (o : Owner) (m : Mode) (w : Bool) :
    acquireBitsClear (claimByte o m w) = true ∧ lowNibble (claimByte o m w) = o
      ∧ modeBit (claimByte o m w) = m ∧ waitBit (claimByte o m w) = w := by
  revert o
  cases m <;> cases w <;> decide

/-! ### Check 2 -/

theorem FrameKind.code_lt (k : FrameKind) : k.code < 16 := by cases k <;> decide

/-- The header carries its fields: a frame passes check 2 as it was sent where its body does. -/
theorem decodeFrame_frameBytes {limit : Nat} {f : Frame}
    (hbody : decodeBody limit f.body.kind.code (payloadBytes f.body) = some f.body) :
    decodeFrame limit (frameBytes f) = some f := by
  obtain ⟨hclear, hstate⟩ := senderState_byte f.senderState
  simp only [frameBytes, wordBytes, List.cons_append, List.nil_append, decodeFrame, if_pos hclear, hstate,
    highNibble_nibbles f.body.kind.code_lt f.sender.isLt, lowNibble_nibbles, wordOf_extractLsb, hbody, Option.map_some]

/-- What is to be shown of each kind: its payload fits, and its body passes check 2. -/
theorem receiveFrame_of_decodeBody {limit : Nat} {f : Frame} (hfits : (payloadBytes f.body).length ≤ 96)
    (hbody : decodeBody limit f.body.kind.code (payloadBytes f.body) = some f.body) :
    receiveFrame limit (frameLevels f) = some f :=
  (receiveFrame_frameLevels limit hfits).trans (decodeFrame_frameBytes hbody)

theorem length_payloadBytes_fixed {limit : Nat} {f : Frame} (h : FixedFrame limit f) :
    (payloadBytes f.body).length ≤ 4 := by
  unfold FixedFrame at h
  cases hb : f.body <;> simp only [hb] at h
  case alive | leave => exact Nat.zero_le 4
  case join d | found d => exact le_refl 4
  case evict | refuse | claim | free | withdraw => exact (by decide : 2 ≤ 4)

theorem decodeBody_fixed {limit : Nat} {f : Frame} (h : FixedFrame limit f) :
    decodeBody limit f.body.kind.code (payloadBytes f.body) = some f.body := by
  unfold FixedFrame at h
  cases hb : f.body <;> simp only [hb] at h
  case alive | leave | join d | found d => rfl
  case evict v c =>
    exact (if_pos (highBitsClear_nibbles v)).trans (by rw [lowNibble_nibbles])
  case refuse j r =>
    obtain ⟨hrange, hreason⟩ := refusalReason_byte r
    exact (if_pos ⟨highBitsClear_nibbles j, hrange⟩).trans (by rw [lowNibble_nibbles, hreason])
  case claim o l m w =>
    obtain ⟨hclear, howner, hmode, hwait⟩ := claimByte_fields o m w
    exact (if_pos ⟨hclear, h⟩).trans (by rw [howner, hmode, hwait])
  case free o l | withdraw o l =>
    exact (if_pos ⟨highBitsClear_nibbles o, h⟩).trans (by rw [lowNibble_nibbles])

end Sys2Proof.Machine

namespace Sys2Proof.FrameFormats
open Sys2Proof.Machine Sys2Proof.Safety

/-- Settles O59: removal undoes insertion from every run, and eight bits are the byte they came from. -/
theorem insertedBitsComeOff : Obligations.InsertedBitsComeOff :=
  ⟨fun prev run bits _ _ => removeBits_insertBits bits prev run, bytesOfLevels_levelsOfBytes⟩

end Sys2Proof.FrameFormats
end

section
/-! PROOFS. The snapshot entries of a SNAPDATA pass their form checks as they were sent (05 R91, R93, R95). -/
namespace Sys2Proof.Machine
open Sys2Proof.Safety

/-! ### Claimants -/

theorem claimantOfByte_claimantByte (c : Claimant) : claimantOfByte (claimantByte c) = c := by
  have hstation : highNibble (claimantByte c) = c.station := Fin.ext (highNibble_nibbles c.station.isLt c.owner.isLt)
  rw [claimantOfByte, hstation, claimantByte, lowNibble_nibbles]

theorem map_claimantOfByte (cs : List Claimant) : (cs.map claimantByte).map claimantOfByte = cs := by
  rw [List.map_map, show claimantOfByte ∘ claimantByte = id from funext claimantOfByte_claimantByte, List.map_id]

theorem claimantByte_injective : Function.Injective claimantByte :=
  Function.LeftInverse.injective claimantOfByte_claimantByte

/-- Claimants in ascending order are ascending bytes. -/
theorem claimantByte_lt {a b : Claimant} (h : a.before b = true) : (claimantByte a).toNat < (claimantByte b).toNat := by
  rw [Claimant.before_iff] at h
  simp only [claimantByte, nibbles, BitVec.toNat_ofNat]
  omega

theorem strictlyAscending_of_pairwise : ∀ {bytes : List Byte}, (bytes.Pairwise fun a b => a.toNat < b.toNat) →
    strictlyAscending bytes = true
  | [], _ | [_], _ => rfl
  | a :: b :: rest, h => by
    obtain ⟨hfirst, hrest⟩ := List.pairwise_cons.1 h
    simp [strictlyAscending, hfirst b List.mem_cons_self, strictlyAscending_of_pairwise hrest]

theorem noRepeats_of_nodup {α : Type} [DecidableEq α] : ∀ {l : List α}, l.Nodup → noRepeats l = true
  | [], _ => rfl
  | a :: l, h => by
    obtain ⟨hnew, hrest⟩ := List.nodup_cons.1 h
    simp [noRepeats, hnew, noRepeats_of_nodup hrest]

/-! ### The mode map (05 R91) -/

/-- A mode map lies below twice the weight of its first bit. -/
theorem modeMap_le (ms : List Mode) : ∀ weight : Nat, modeMap weight ms ≤ 2 * weight - 1 := by
  induction ms with
  | nil => exact fun _ => Nat.zero_le _
  | cons m ms ih =>
    intro weight
    have hrest := ih (weight / 2)
    rw [modeMap]
    split <;> omega

/-- As long as no bit falls off below, doubling the first weight doubles the map. -/
theorem modeMap_two_pow_succ (ms : List Mode) : ∀ k : Nat, ms.length ≤ k + 1 →
    modeMap (2 ^ (k + 1)) ms = 2 * modeMap (2 ^ k) ms := by
  induction ms with
  | nil => exact fun _ _ => rfl
  | cons m ms ih =>
    intro k hlen
    have hhalf (n : Nat) : 2 ^ (n + 1) / 2 = 2 ^ n := by omega
    have hrest : modeMap (2 ^ k) ms = 2 * modeMap (2 ^ k / 2) ms := by
      cases k with
      | zero =>
        obtain rfl : ms = [] := List.length_eq_zero_iff.1 (by simpa using hlen)
        rfl
      | succ k => rw [hhalf, ih k (by simpa using hlen)]
    rw [modeMap, modeMap, hhalf, hrest]
    split <;> omega

/-- The map's first bit is the first waiter's mode. -/
theorem getLsbD_modeMap_cons (m : Mode) (ms : List Mode) :
    (BitVec.ofNat 16 (modeMap 32768 (m :: ms))).getLsbD 15 = decide (m = .x) := by
  have hrest : modeMap 16384 ms ≤ 32767 := modeMap_le ms 16384
  rw [BitVec.getLsbD_ofNat, Nat.testBit_eq_decide_div_mod_eq, modeMap]
  cases m <;> simp <;> omega

/-- The rest of the map, moved up by one bit, is the map of the other waiters. -/
theorem modeMap_cons_shiftLeft (m : Mode) {ms : List Mode} (hlen : ms.length ≤ 15) :
    BitVec.ofNat 16 (modeMap 32768 (m :: ms)) <<< 1 = BitVec.ofNat 16 (modeMap 32768 ms) := by
  have hrest : modeMap 32768 ms = 2 * modeMap 16384 ms := modeMap_two_pow_succ ms 14 hlen
  apply BitVec.eq_of_toNat_eq
  rw [BitVec.toNat_shiftLeft, BitVec.toNat_ofNat, BitVec.toNat_ofNat, hrest, modeMap, Nat.shiftLeft_eq]
  cases m <;> simp <;> omega

theorem modesOf_modeMap : ∀ {ms : List Mode}, ms.length ≤ 16 →
    modesOf ms.length (BitVec.ofNat 16 (modeMap 32768 ms)) = some ms
  | [], _ => rfl
  | m :: ms, hlen => by
    have hrest : ms.length ≤ 15 := Nat.le_of_succ_le_succ hlen
    rw [List.length_cons, modesOf, modeMap_cons_shiftLeft m hrest, modesOf_modeMap (hrest.trans (by decide)),
      getLsbD_modeMap_cons]
    cases m <;> rfl

/-! ### One entry -/

/-- The second byte of an entry holds the state's code and the number of holders. -/
theorem entryByte_fields : ∀ code < 4, ∀ n < 16,
    (lowNibble (BitVec.ofNat 8 (64 * code + n))).val = n ∧ (BitVec.ofNat 8 (64 * code + n)).toNat / 64 = code
      ∧ BitVec.ofNat 8 (64 * code + n) &&& 0x30 = 0 := by decide

/-- The code of a known state is carried with the counts of a sound entry. -/
theorem entryStateOf_code {e : LockEntry} (h : EntrySound e) (hknown : e.state ≠ .unknown) :
    entryStateOf e.state.code e.holders.length e.waiters.length = some e.state := by
  obtain ⟨hfits, -, hqueue, -⟩ := h
  cases hst : e.state <;> simp only [hst] at hfits
  case unknown => exact absurd hst hknown
  case free => exact if_pos ⟨congrArg List.length hfits.1, congrArg List.length hfits.2⟩
  case excl => exact if_pos ⟨hfits, hqueue⟩
  case shared => exact if_pos ⟨hfits.1, hfits.2, hqueue⟩

theorem length_holders_le {e : LockEntry} (h : EntrySound e) : e.holders.length ≤ 8 := by
  have hfits := h.1
  split at hfits
  · simp [hfits.1]
  · omega
  · exact hfits.2
  · simp [hfits.1]

/-- The bytes of a sound entry's claimants ascend through the holders and name nobody twice. -/
theorem claimantBytes_checked {e : LockEntry} (h : EntrySound e) :
    strictlyAscending (e.holders.map claimantByte) = true
      ∧ noRepeats (e.holders.map claimantByte ++ e.waiters.map fun w => claimantByte w.claimant) = true := by
  obtain ⟨-, hordered, -, hnodup⟩ := h
  refine ⟨strictlyAscending_of_pairwise (List.pairwise_map.2 (hordered.imp claimantByte_lt)), noRepeats_of_nodup ?_⟩
  simpa [Function.comp_def] using hnodup.map claimantByte_injective

/-- Claimants and modes, carried apart, come together as the waiters. -/
theorem zipWith_waiters (ws : List Waiter) :
    ((ws.map fun w => claimantByte w.claimant).map claimantOfByte).zipWith Waiter.mk (ws.map Waiter.mode) = ws := by
  simp [List.zipWith_map, List.zipWith_self, claimantOfByte_claimantByte]

theorem take_map_append {α β : Type} (f : α → β) (xs : List α) (more : List β) :
    (xs.map f ++ more).take xs.length = xs.map f := List.take_left' (List.length_map f)

theorem drop_map_append {α β : Type} (f : α → β) (xs : List α) (more : List β) :
    (xs.map f ++ more).drop xs.length = more := List.drop_left' (List.length_map f)

/-- The bytes of an entry pass the checks as that entry, whatever follows them. -/
theorem decodeEntry_entryBytes (lock : Byte) {e : LockEntry} (h : EntrySound e) (hknown : e.state ≠ .unknown)
    (rest : List Byte) : decodeEntry (entryBytes lock e ++ rest) = some (⟨lock, e⟩, rest) := by
  have hstate := entryStateOf_code h hknown
  have hholders := length_holders_le h
  obtain ⟨hasc, hnew⟩ := claimantBytes_checked h
  obtain ⟨-, -, hqueue, -⟩ := h
  have hcode : e.state.code < 4 := by cases e.state <;> decide
  obtain ⟨hcount, htop, hclear⟩ := entryByte_fields _ hcode e.holders.length (by omega)
  have hwaiters : (BitVec.ofNat 8 e.waiters.length).toNat = e.waiters.length := by rw [BitVec.toNat_ofNat]; omega
  simp only [entryBytes, List.cons_append, List.append_assoc, decodeEntry, hcount, hwaiters, htop,
    ← List.drop_drop, take_map_append, drop_map_append]
  rw [if_pos ⟨hclear, by simp, hasc, hnew⟩, hstate]
  by_cases hempty : e.waiters = []
  · obtain ⟨st, hs, ws⟩ := e
    obtain rfl : ws = [] := hempty
    simp only [List.length_nil, if_true, map_claimantOfByte, List.map_nil, List.nil_append]
  · have hmodes := modesOf_modeMap (ms := e.waiters.map Waiter.mode) (by simpa using hqueue)
    rw [List.length_map] at hmodes
    simp only [List.length_eq_zero_iff, hempty, if_false, wordBytes, List.cons_append, List.nil_append,
      wordOf_extractLsb, hmodes, Option.map_some, map_claimantOfByte, zipWith_waiters]

/-! ### The entries of a SNAPDATA -/

theorem decodeEntries_cons {fuel limit next : Nat} {bytes rest : List Byte} {e : SnapEntry}
    (he : decodeEntry bytes = some (e, rest)) (hlock : e.lock.toNat = next) (hlimit : next < limit) :
    decodeEntries (fuel + 1) limit next bytes = (decodeEntries fuel limit (next + 1) rest).map (e :: ·) := by
  cases bytes with
  | nil => cases he
  | cons b bytes => simp only [decodeEntries, he, hlock, hlimit, and_self, if_true]

/-- Consecutive sound known entries below the limit pass the checks as they were sent. -/
theorem decodeEntries_flatMap {limit : Nat} : ∀ (es : List SnapEntry) {fuel next : Nat},
    es.length ≤ fuel → next + es.length ≤ limit → (∀ k e, es[k]? = some e → e.lock.toNat = next + k) →
    (∀ e ∈ es, EntrySound e.entry ∧ e.entry.state ≠ .unknown) →
    decodeEntries fuel limit next (es.flatMap fun e => entryBytes e.lock e.entry) = some es
  | [], fuel, _, _, _, _, _ => by cases fuel <;> rfl
  | e :: es, 0, _, hfuel, _, _, _ => absurd hfuel (Nat.not_succ_le_zero _)
  | e :: es, fuel + 1, next, hfuel, hlimit, hlocks, hsound => by
    obtain ⟨⟨he, hknown⟩, hes⟩ := List.forall_mem_cons.1 hsound
    rw [List.length_cons] at hfuel hlimit
    have hrest := decodeEntries_flatMap (limit := limit) es (fuel := fuel) (next := next + 1) (by omega) (by omega)
      (fun k e hk => by rw [hlocks (k + 1) e hk]; omega) hes
    have hlock : e.lock.toNat = next := hlocks 0 e rfl
    rw [List.flatMap_cons, decodeEntries_cons (decodeEntry_entryBytes e.lock he hknown _) hlock (by omega), hrest,
      Option.map_some]

theorem length_le_length_flatMap_entryBytes (es : List SnapEntry) :
    es.length ≤ (es.flatMap fun e => entryBytes e.lock e.entry).length := by
  rw [List.length_flatMap]
  calc es.length = (es.map fun _ => 1).sum := by simp
    _ ≤ _ := List.sum_le_sum fun e _ => by simp [entryBytes]

theorem decodeBody_snapdata_sound {limit : Nat} {start : Byte} {es : List SnapEntry} (j : Station)
    (h : SoundData limit start es) :
    decodeBody limit 8 (payloadBytes (.snapdata j start es)) = some (.snapdata j start es) := by
  obtain ⟨hne, hlimit, hlocks, hsound, -⟩ := h
  have hlen := length_le_length_flatMap_entryBytes es
  have hpos := List.length_pos_iff.2 hne
  have hdecode := decodeEntries_flatMap es hlen hlimit hlocks hsound
  refine (if_pos ⟨highBitsClear_nibbles j, by omega, List.length_pos_iff.1 (hpos.trans_le hlen)⟩).trans ?_
  rw [hdecode, lowNibble_nibbles, Option.map_some]

theorem receiveFrame_snapdata {limit : Nat} {f : Frame} {j : Station} {start : Byte} {es : List SnapEntry}
    (hbody : f.body = .snapdata j start es) (h : SoundData limit start es) :
    receiveFrame limit (frameLevels f) = some f := by
  apply receiveFrame_of_decodeBody
  · obtain ⟨-, -, -, -, hfits⟩ := h
    rw [hbody]
    simp only [payloadBytes, List.length_cons]
    omega
  · rw [hbody]
    exact decodeBody_snapdata_sound j h

end Sys2Proof.Machine
end

section
/-! PROOFS. The content of a SNAPHEAD passes its form checks as it was sent (05 R92, R95). With it a frame of every kind
does. -/
namespace Sys2Proof.Machine
open Sys2Proof.Safety

/-! ### The member records (05 Table 5-7) -/

theorem decodeRecordState_byte (st : RecordState) : decodeRecordState st.byte st.carriedCursor = some st := by
  cases st with
  | absent | member => rfl
  | joining headSent cursor => cases headSent <;> simp [decodeRecordState, RecordState.byte, RecordState.carriedCursor]
  | refuseDue reason => cases reason <;> rfl

theorem length_flatMap_recordBytes (rs : List MemberRecord) : (rs.flatMap recordBytes).length = 2 * rs.length := by
  simp [List.length_flatMap, recordBytes, Nat.mul_comm]

/-- Record k stands in two bytes, whatever follows the records. -/
theorem getD_flatMap_recordBytes (more : List Byte) : ∀ (rs : List MemberRecord) (k : Nat) (hk : k < rs.length),
    (rs.flatMap recordBytes ++ more).getD (2 * k) 0 = rs[k].state.byte
      ∧ (rs.flatMap recordBytes ++ more).getD (2 * k + 1) 0 = rs[k].count
  | _ :: _, 0, _ => ⟨rfl, rfl⟩
  | _ :: rs, k + 1, hk => getD_flatMap_recordBytes more rs k (Nat.lt_of_succ_lt_succ hk)

/-! ### The join list (05 Table 5-7) -/

/-- The first byte of an item holds the station and bit 8 of the cursor. -/
theorem itemByte_fields : ∀ s : Station, ∀ high < 2,
    nibbles s.val high &&& 0x0E = 0 ∧ highNibble (nibbles s.val high) = s ∧ (nibbles s.val high).toNat % 2 = high := by
  decide

/-- The items of a join list, as the receiver reads them. -/
def listItems (members : Vector MemberRecord 16) (joinList : List Station) : List (Station × Nat) :=
  joinList.map fun s => (s, members[s].state.carriedCursor)

theorem decodeItems_flatMap {members : Vector MemberRecord 16}
    (hcursor : ∀ s : Station, members[s].state.carriedCursor < 512) : ∀ joinList : List Station,
    decodeItems (joinList.flatMap (itemBytes members)) = some (listItems members joinList)
  | [] => rfl
  | s :: joinList => by
    have hs := hcursor s
    obtain ⟨hclear, hstation, hhigh⟩ := itemByte_fields s (members[s].state.carriedCursor / 256) (by omega)
    have hvalue : 256 * (members[s].state.carriedCursor / 256)
        + (BitVec.ofNat 8 members[s].state.carriedCursor).toNat = members[s].state.carriedCursor := by
      rw [BitVec.toNat_ofNat]
      omega
    simp only [List.flatMap_cons, itemBytes, List.cons_append, List.nil_append, decodeItems, if_pos hclear, hstation,
      hhigh, hvalue, decodeItems_flatMap hcursor joinList, Option.map_some]
    rfl

theorem listItems_stations (members : Vector MemberRecord 16) (joinList : List Station) :
    (listItems members joinList).map (·.1) = joinList := by
  simp [listItems, Function.comp_def]

theorem carriedCursor_of_unlisted {st : RecordState} (h : st.listed = false) : st.carriedCursor = 0 := by
  cases st <;> simp_all [RecordState.listed, RecordState.carriedCursor]

/-- Only a JOINING record holds a cursor other than 0. -/
theorem carriedCursor_joining (st : RecordState) :
    st.carriedCursor = 0 ∨ st = .joining false st.carriedCursor ∨ st = .joining true st.carriedCursor := by
  cases st with
  | joining headSent cursor => cases headSent <;> simp [RecordState.carriedCursor]
  | absent | refuseDue | member => exact .inl rfl

/-- The list carries the cursor of every record: a station that is not on it has none. -/
theorem cursorIn_listItems {members : Vector MemberRecord 16} {k : Station} : ∀ {joinList : List Station},
    (k ∉ joinList → members[k].state.carriedCursor = 0) →
    cursorIn (listItems members joinList) k = members[k].state.carriedCursor
  | [], h => (h List.not_mem_nil).symm
  | s :: joinList, h => by
    by_cases hs : s = k
    · subst hs
      simp [cursorIn, listItems]
    · have hrest : cursorIn (listItems members joinList) k = members[k].state.carriedCursor :=
        cursorIn_listItems fun hk => h (by simp [hk, Ne.symm hs])
      rw [← hrest]
      simp [cursorIn, listItems, hs]

/-! ### The payload of a SNAPHEAD (05 R92, Table 5-7) -/

section
variable (h : SnapHead)

theorem length_memberBytes : (h.members.toList.flatMap recordBytes).length = 32 := by
  rw [length_flatMap_recordBytes, Vector.length_toList]

theorem length_payloadBytes_snaphead : (payloadBytes (.snaphead h)).length = 39 + 2 * h.joinList.length := by
  have hitems : (h.joinList.flatMap (itemBytes h.members)).length = 2 * h.joinList.length := by
    simp [List.length_flatMap, itemBytes, Nat.mul_comm]
  simp only [payloadBytes, digestBytes, membershipBytes, List.length_cons, List.length_append, List.length_nil,
    length_memberBytes, hitems]
  omega

theorem drop_payloadBytes_snaphead :
    (payloadBytes (.snaphead h)).drop 39 = h.joinList.flatMap (itemBytes h.members) := by
  change (h.members.toList.flatMap recordBytes ++ _).drop 33 = _
  rw [List.drop_append, List.drop_eq_nil_of_le (by rw [length_memberBytes]; decide), length_memberBytes]
  rfl

theorem payloadBytes_snaphead_listLength :
    (payloadBytes (.snaphead h)).getD 38 0 = BitVec.ofNat 8 h.joinList.length := by
  change (h.members.toList.flatMap recordBytes ++ _).getD 32 0 = _
  rw [List.getD_append_right _ _ _ _ (length_memberBytes h).le, length_memberBytes]
  rfl

theorem payloadBytes_snaphead_record (k : Station) :
    (payloadBytes (.snaphead h)).getD (6 + 2 * k.val) 0 = h.members[k].state.byte
      ∧ (payloadBytes (.snaphead h)).getD (7 + 2 * k.val) 0 = h.members[k].count := by
  rw [Nat.add_comm 6, Nat.add_comm 7]
  exact getD_flatMap_recordBytes _ h.members.toList k.val (by simp)

/-- Every record is carried whole, its cursor by the join list. -/
theorem decodeRecord_payloadBytes (hlist : JoinListSound h.members h.joinList) (k : Station) :
    decodeRecord (payloadBytes (.snaphead h)) (listItems h.members h.joinList) k = some h.members[k] := by
  obtain ⟨hstate, hcount⟩ := payloadBytes_snaphead_record h k
  obtain ⟨-, -, hlisted⟩ := hlist
  have hcursor := cursorIn_listItems (members := h.members) (k := k) (joinList := h.joinList)
    fun hk => carriedCursor_of_unlisted (Bool.eq_false_iff.2 fun hl => hk ((hlisted k).2 hl))
  rw [decodeRecord, hstate, hcount, hcursor, decodeRecordState_byte, Option.map_some]

end

theorem decodeSnaphead_payloadBytes {h : SnapHead} (hsound : SoundHead h) :
    decodeSnaphead (payloadBytes (.snaphead h)) = some h := by
  obtain ⟨hspace, hspace', hlist, hcursors⟩ := hsound
  have hrecords := funext (decodeRecord_payloadBytes h hlist)
  have hitems := decodeItems_flatMap (members := h.members) (fun s => by have := hcursors s; omega) h.joinList
  obtain ⟨hroom, hnodup, hlisted⟩ := hlist
  have hcount : (BitVec.ofNat 8 h.joinList.length).toNat = h.joinList.length := by
    rw [BitVec.toNat_ofNat]
    omega
  have hmembers : Vector.ofFn (fun k : Station => h.members[k]) = h.members := by
    ext k hk
    simp
  have hjoiner : (payloadBytes (.snaphead h)).getD 0 0 = nibbles 0 h.joiner.val := rfl
  have hdigest : (payloadBytes (.snaphead h)).getD 2 0 = h.digest.space := rfl
  have hfounder : (payloadBytes (.snaphead h)).getD 5 0 = nibbles 0 h.founder.val := rfl
  simp only [decodeSnaphead, drop_payloadBytes_snaphead, hitems, hrecords, payloadBytes_snaphead_listLength, hcount,
    listItems_stations, Option.getD_some, hmembers, hjoiner, hdigest, hfounder, lowNibble_nibbles]
  refine if_pos ⟨hroom, length_payloadBytes_snaphead h, highBitsClear_nibbles _, highBitsClear_nibbles _, hspace,
    hspace', ?_, noRepeats_of_nodup hnodup, ?_, ?_⟩
  · exact List.all_map.trans (List.all_eq_true.2 fun _ _ => rfl)
  · refine List.all_eq_true.2 fun k _ => beq_iff_eq.2 ?_
    rw [Bool.eq_iff_iff, ← hlisted k, List.contains_iff_mem]
  · refine List.all_eq_true.2 fun i hi => ?_
    obtain ⟨s, -, rfl⟩ := List.mem_map.1 hi
    simp only [Bool.and_eq_true, Bool.or_eq_true, decide_eq_true_eq, or_assoc]
    exact ⟨hcursors s, carriedCursor_joining _⟩

theorem receiveFrame_snaphead {limit : Nat} {f : Frame} {h : SnapHead} (hbody : f.body = .snaphead h)
    (hsound : SoundHead h) : receiveFrame limit (frameLevels f) = some f := by
  apply receiveFrame_of_decodeBody
  · obtain ⟨-, -, ⟨hroom, -⟩, -⟩ := hsound
    rw [hbody, length_payloadBytes_snaphead]
    omega
  · rw [hbody]
    exact congrArg (Option.map FrameBody.snaphead) (decodeSnaphead_payloadBytes hsound)

end Sys2Proof.Machine

namespace Sys2Proof.FrameFormats
open Sys2Proof.Machine Sys2Proof.Safety

/-- Settles O60: the header carries its fields, and each payload, fixed or of a snapshot, those of its kind. -/
theorem framesDecodeAsSent : Obligations.FramesDecodeAsSent := by
  refine ⟨fun limit f hfixed => ?_, fun limit f => ⟨fun h hbody hsound => ?_, fun j start es hbody hsound => ?_⟩⟩
  · exact receiveFrame_of_decodeBody ((length_payloadBytes_fixed hfixed).trans (by decide)) (decodeBody_fixed hfixed)
  · exact receiveFrame_snaphead hbody hsound
  · exact receiveFrame_snapdata hbody hsound

end Sys2Proof.FrameFormats
end


section
/-! PROOFS. The Send Scheduler's operations (06): the choice of the next frame, and that each operation on the lists and
the marks keeps them sound. -/
namespace Sys2Proof.Machine
open Sys2Proof.Safety

/-- Every item is ready, except a donor item while the apply queue holds a frame. -/
theorem ItemId.ready_iff (queueEmpty : Bool) (id : ItemId) :
    id.ready queueEmpty = true ↔ (id = .control .donor → queueEmpty = true) := by
  cases id with
  | lock k o l => simp [ItemId.ready]
  | control p => cases p <;> simp [ItemId.ready, Purpose.ready]

namespace Sched
variable {c : Sched}

/-! ### What stands in the lists -/

theorem holds_iff (c : Sched) (id : ItemId) :
    c.holds id = true ↔ (∃ i ∈ c.control, i.id = id) ∨ ∃ i ∈ c.locks, i.id = id := by
  simp [holds]

/-- The place of an item's purpose is empty. -/
theorem holds_id_eq_false_iff (c : Sched) (i : ControlItem) :
    c.holds i.id = false ↔ ∀ j ∈ c.control, j.purpose ≠ i.purpose := by
  rw [← Bool.not_eq_true, ControlItem.id, holds_control]
  simp

/-- Items that stand go on standing in longer lists. -/
theorem holds_mono {d : Sched} {id : ItemId} (hcontrol : c.control ⊆ d.control) (hlocks : c.locks ⊆ d.locks)
    (h : c.holds id = true) : d.holds id = true := by
  rw [holds_iff] at *
  exact h.imp (fun ⟨i, hi, hid⟩ => ⟨i, hcontrol hi, hid⟩) fun ⟨i, hi, hid⟩ => ⟨i, hlocks hi, hid⟩

/-- A replaced membership item stands for the same purpose. -/
theorem setMembership_purposes (c : Sched) (k : MembershipKind) :
    (c.setMembership k).control.map ControlItem.purpose = c.control.map ControlItem.purpose := by
  refine List.map_map.trans (List.map_congr_left fun i _ => ?_)
  cases i <;> rfl

theorem setMembership_holds (c : Sched) (k : MembershipKind) (id : ItemId) :
    (c.setMembership k).holds id = c.holds id := by
  cases id with
  | lock kind o l => rw [Bool.eq_iff_iff, holds_lock, holds_lock]; rfl
  | control p =>
    have hmem (d : Sched) : d.holds (.control p) = true ↔ p ∈ d.control.map ControlItem.purpose := by
      rw [holds_control, List.mem_map]
    rw [Bool.eq_iff_iff, hmem, hmem, setMembership_purposes]

/-- Items that are not taken go on standing. -/
theorem takeLocks_holds {id : ItemId} {gone : List ItemId} (hid : id ∉ gone) (h : c.holds id = true) :
    (c.takeLocks gone).holds id = true := by
  rw [holds_iff] at *
  refine h.imp_right fun ⟨i, hi, he⟩ => ⟨i, List.mem_filter.2 ⟨hi, ?_⟩, he⟩
  simpa [he] using hid

/-! ### The choice of the next frame (06 R101) -/

section
variable {queueEmpty : Bool}

theorem candidate_of_retry {id : ItemId} (hretry : c.retry = some id) (hholds : c.holds id = true)
    (hready : id.ready queueEmpty = true) : c.candidate queueEmpty = some id := by
  simp [candidate, hretry, hholds, hready]

/-- Without a mark on a ready item the lists decide, the control list first. -/
theorem candidate_of_no_retry (h : ∀ id, c.retry = some id → ¬ (c.holds id = true ∧ id.ready queueEmpty = true)) :
    c.candidate queueEmpty
      = ((c.control.find? fun i => i.id.ready queueEmpty).map ControlItem.id).or (c.locks.head?.map LockItem.id) := by
  have hmarked : (c.retry.filter fun id => c.holds id && id.ready queueEmpty) = none := by
    rw [Option.filter_eq_none_iff]
    simpa using h
  simp only [candidate, hmarked, Option.orElse_eq_orElse, Option.orElse_eq_or, Option.none_or]
  rfl

/-- The first ready control item goes before the lock list. -/
theorem candidate_of_control {before after : List ControlItem} {i : ControlItem}
    (h : ∀ id, c.retry = some id → ¬ (c.holds id = true ∧ id.ready queueEmpty = true))
    (hcontrol : c.control = before ++ i :: after) (hready : i.id.ready queueEmpty = true)
    (hbefore : ∀ j ∈ before, ¬ j.id.ready queueEmpty = true) : c.candidate queueEmpty = some i.id := by
  have hfind : (c.control.find? fun i => i.id.ready queueEmpty) = some i :=
    List.find?_eq_some_iff_append.2 ⟨hready, before, after, hcontrol, by simpa using hbefore⟩
  rw [candidate_of_no_retry h, hfind]
  rfl

/-- With no control item ready the head of the lock list is next. -/
theorem candidate_of_locks
    (h : ∀ id, c.retry = some id → ¬ (c.holds id = true ∧ id.ready queueEmpty = true))
    (hcontrol : ∀ i ∈ c.control, ¬ i.id.ready queueEmpty = true) :
    c.candidate queueEmpty = c.locks.head?.map LockItem.id := by
  rw [candidate_of_no_retry h, List.find?_eq_none.2 hcontrol]
  rfl

/-- The candidate stands in a list. -/
theorem holds_of_candidate {id : ItemId} (h : c.candidate queueEmpty = some id) : c.holds id = true := by
  by_cases hretry : ∃ marked, c.retry = some marked ∧ c.holds marked = true ∧ marked.ready queueEmpty = true
  · obtain ⟨marked, hmark, hholds, hready⟩ := hretry
    rw [candidate_of_retry hmark hholds hready] at h
    cases h
    exact hholds
  · rw [candidate_of_no_retry (by simpa using hretry)] at h
    rw [holds_iff]
    rcases Option.or_eq_some_iff.1 h with hcontrol | ⟨-, hlock⟩
    · obtain ⟨i, hfind, hid⟩ := Option.map_eq_some_iff.1 hcontrol
      exact .inl ⟨i, List.mem_of_find?_eq_some hfind, hid⟩
    · obtain ⟨i, hhead, hid⟩ := Option.map_eq_some_iff.1 hlock
      exact .inr ⟨i, List.mem_of_head? hhead, hid⟩

end
end Sched
end Sys2Proof.Machine

namespace Sys2Proof.Safety.SchedulerSound
open Sys2Proof.Machine
variable {c : Sched} (h : SchedulerSound c)
include h

/-! ### Each operation keeps the lists and the marks sound -/

/-- New lists and a new retry mark are sound where the purposes stay apart, the mark names an item that stands, and the
item on the line still stands. -/
theorem with_lists {control : List ControlItem} {locks : List LockItem} {retry : Option ItemId}
    (hnodup : (control.map ControlItem.purpose).Nodup)
    (hretry : ∀ id, retry = some id →
      Sched.holds { c with control := control, locks := locks, retry := retry } id = true)
    (hline : ∀ id, c.onLine = .item id →
      Sched.holds { c with control := control, locks := locks, retry := retry } id = true) :
    SchedulerSound { c with control := control, locks := locks, retry := retry } := by
  obtain ⟨-, -, -, hrescinded, hheld⟩ := h
  exact ⟨hnodup, hretry, hline, hrescinded, hheld⟩

@[simp] theorem queueControl (i : ControlItem) : SchedulerSound (c.queueControl i) := by
  cases hi : c.holds i.id
  · rw [Sched.queueControl_new c i hi]
    have hstands (id : ItemId) : c.holds id = true → Sched.holds { c with control := c.control ++ [i] } id = true :=
      Sched.holds_mono (List.subset_append_left _ _) (List.Subset.refl _)
    have hapart := (c.holds_id_eq_false_iff i).1 hi
    have ⟨hnodup, hretry, hline, _⟩ := h
    refine h.with_lists ?_ (fun id hid => hstands id (hretry id hid)) fun id hid => hstands id (hline id hid)
    rw [List.map_append, List.nodup_append]
    simp only [List.map_cons, List.map_nil, List.mem_map, List.mem_singleton]
    refine ⟨hnodup, List.nodup_singleton _, ?_⟩
    rintro _ ⟨j, hj, rfl⟩ _ rfl
    exact hapart j hj
  · rwa [Sched.queueControl_held c i hi]

@[simp] theorem queueLock (i : LockItem) : SchedulerSound (c.queueLock i) := by
  have hstands (id : ItemId) : c.holds id = true → (c.queueLock i).holds id = true :=
    Sched.holds_mono (List.Subset.refl _) (List.subset_append_left _ _)
  have ⟨hnodup, hretry, hline, _⟩ := h
  exact h.with_lists hnodup (fun id hid => hstands id (hretry id hid)) fun id hid => hstands id (hline id hid)

/-- An item that is not on the line may leave its list. -/
theorem take {id : ItemId} (hid : c.onLine ≠ .item id) : SchedulerSound (c.take id) := by
  have hstands : ∀ id', id' ≠ id → c.holds id' = true → (c.take id).holds id' = true :=
    fun id' hne => (c.take_holds_other id id' hne).trans
  have ⟨hnodup, hretry, hline, _⟩ := h
  refine h.with_lists (hnodup.sublist (List.filter_sublist.map _)) (fun id' hid' => ?_) fun id' hid' => ?_
  · split at hid'
    · cases hid'
    · next hne => exact hstands id' (fun he => hne (he ▸ hid')) (hretry id' hid')
  · exact hstands id' (fun he => hid (he ▸ hid')) (hline id' hid')

theorem takeLocks {gone : List ItemId} (hgone : ∀ id ∈ gone, c.onLine ≠ .item id) :
    SchedulerSound (c.takeLocks gone) := by
  have ⟨hnodup, hretry, hline, _⟩ := h
  refine h.with_lists hnodup (fun id hid => ?_) fun id hid =>
    Sched.takeLocks_holds (fun hg => hgone id hg hid) (hline id hid)
  obtain ⟨hid, hkept⟩ := Option.filter_eq_some_iff.1 hid
  exact Sched.takeLocks_holds (by simpa using hkept) (hretry id hid)

/-- An item on the line is rescinded, one that stands in its list leaves it (06 R105). -/
@[simp] theorem remove (id : ItemId) : SchedulerSound (c.remove id).1 := by
  by_cases hline : c.onLine = .item id
  · rw [c.remove_on_line id hline]
    obtain ⟨hnodup, hretry, honLine, -, hheld⟩ := h
    exact ⟨hnodup, hretry, honLine, fun _ => ⟨id, hline⟩, hheld⟩
  · cases hstands : c.holds id
    · rwa [c.remove_absent id hline hstands]
    · rw [c.remove_listed id hline hstands]
      exact h.take hline

theorem setMembership (k : MembershipKind) : SchedulerSound (c.setMembership k) := by
  have hstands := c.setMembership_holds k
  have ⟨hnodup, hretry, hline, _⟩ := h
  refine h.with_lists ?_ (fun id hid => (hstands id).trans (hretry id hid)) fun id hid =>
    (hstands id).trans (hline id hid)
  exact (c.setMembership_purposes k).symm ▸ hnodup

theorem replaceMembership (k : MembershipKind) : SchedulerSound (c.replaceMembership k) := by
  unfold Sched.replaceMembership
  split
  · next hline =>
    obtain ⟨hnodup, hretry, honLine, hrescinded, -⟩ := h
    exact ⟨hnodup, hretry, honLine, hrescinded, fun _ => hline⟩
  · exact h.setMembership k

/-- A bid is won with an item that stands (06 R102). -/
theorem won {id : ItemId} (hid : c.holds id = true) : SchedulerSound (c.won id) := by
  obtain ⟨hnodup, -⟩ := h
  refine ⟨hnodup, nofun, fun id' hid' => ?_, nofun, nofun⟩
  cases hid'
  exact hid

theorem wonUnlisted : SchedulerSound c.wonUnlisted := by
  obtain ⟨hnodup, hretry, -⟩ := h
  exact ⟨hnodup, hretry, nofun, nofun, nofun⟩

/-- Nothing is on the line any more (06 R108). -/
theorem offLine : SchedulerSound (offLine c) := by
  obtain ⟨hnodup, hretry, -⟩ := h
  exact ⟨hnodup, hretry, nofun, nofun, nofun⟩

/-- The retry mark is set on an item that stands (06 R104). -/
theorem with_retry {id : ItemId} (hid : c.holds id = true) : SchedulerSound { c with retry := some id } := by
  have ⟨hnodup, _, hline, _⟩ := h
  refine h.with_lists hnodup (fun id' hid' => ?_) hline
  cases hid'
  exact hid

theorem accepted : SchedulerSound c.accepted := by
  rw [Sched.accepted_eq]
  split
  · next id _ =>
    rw [← Sched.take_eq_itemGone]
    exact h.offLine.take nofun
  · exact h.offLine

theorem vetoed : SchedulerSound c.vetoed := by
  by_cases hitem : ∃ id, c.onLine = .item id
  · obtain ⟨id, hid⟩ := hitem
    have ⟨_, _, hline, _⟩ := h
    have hstands : (Safety.offLine c).holds id = true := hline id hid
    cases hrescinded : c.rescinded
    · cases hheld : c.held with
      | none =>
        rw [Sched.vetoed_kept hid hrescinded hheld]
        exact h.offLine.with_retry hstands
      | some k =>
        rw [Sched.vetoed_replaced hid hrescinded hheld]
        exact (h.offLine.setMembership k).with_retry ((Sched.setMembership_holds _ k id).trans hstands)
    · rw [Sched.vetoed_rescinded hid hrescinded, ← Sched.take_eq_itemGone]
      exact h.offLine.take nofun
  · rw [Sched.vetoed_of_no_item (by simpa using hitem)]
    exact h.offLine

omit h in
/-- Empty lists without marks are sound, whatever frame of no list is on the line (06 R108, R109). -/
theorem empty {o : OnLine} (ho : ∀ id, o ≠ .item id) : SchedulerSound ⟨[], [], none, o, false, none⟩ :=
  ⟨List.nodup_nil, nofun, fun id hid => absurd hid (ho id), nofun, nofun⟩

omit h in
theorem dropped : SchedulerSound c.dropped := by
  unfold Sched.dropped
  split
  · exact empty nofun
  · exact empty nofun

end Sys2Proof.Safety.SchedulerSound

namespace Sys2Proof.SendScheduler
open Sys2Proof.Machine Sys2Proof.Safety

/-- Settles O19: the choice goes mark, control list, lock list, and a removal has its three answers. -/
theorem schedulerChoosesAndRemovesByItsLists : Obligations.SchedulerChoosesAndRemovesByItsLists := by
  intro c queueEmpty
  simp only [← ItemId.ready_iff]
  refine ⟨fun id => Sched.candidate_of_retry, fun hmark => ⟨fun before i after => Sched.candidate_of_control hmark,
    Sched.candidate_of_locks hmark⟩, fun i => ⟨fun hstands => ?_, fun hempty => ?_⟩, fun id => ⟨c.remove_on_line id,
    fun hline hstands => ?_, c.remove_absent id⟩⟩
  · exact c.queueControl_held i ((c.holds_control i.purpose).2 hstands)
  · exact c.queueControl_new i ((c.holds_id_eq_false_iff i).2 hempty)
  · rw [c.remove_listed id hline hstands, Sched.take_eq_itemGone]

end Sys2Proof.SendScheduler
end


section
/-! PROOFS. Every command keeps the Send Scheduler's lists and marks sound (06 R96 to R98): the operations of the other
blocks leave the scheduler alone, or use it through its own operations. -/
namespace Sys2Proof.Machine
open Sys2Proof.Safety

/-- What completes in one event fits, or is the CANCEL of an ACQUIRE that does. -/
theorem fits_or_cancel_of_completed {fits : Operation → Prop} {live done stay : List Operation}
    (h : Completed fits live done stay) : ∀ op ∈ done, fits op ∨ ∃ o l, op.body = .cancel o l := by
  induction h with
  | nil => nofun
  | stays _ _ _ _ _ _ ih => exact ih
  | alone op _ _ _ hfits _ _ ih => exact List.forall_mem_cons.2 ⟨.inl hfits, ih⟩
  | withCancel _ _ a _ _ _ _ hfits _ _ _ ih =>
    exact List.forall_mem_cons.2 ⟨.inl hfits, List.forall_mem_cons.2 ⟨.inr ⟨a.owner, a.lock, rfl⟩, ih⟩⟩

/-- The flush removes the item of this operation. -/
theorem Sched.flushes_iff (c : Sched) (op : Operation) :
    c.flushes op = true ↔ ∃ id, op.outboundItem = some id ∧ c.holds id = true ∧ c.onLine ≠ .item id := by
  unfold Sched.flushes
  cases op.outboundItem <;> simp

/-- The operations that reply LEFT at a DETACH. -/
theorem flushed_completed (c : Sched) (live : List Operation) :
    Completed (fun op => c.flushes op = true) live (completions c.flushes live.length live).1
      (completions c.flushes live.length live).2 := completions_completed c.flushes live.length live le_rfl

/-- Of the operations that reply LEFT, those with an item lose one that stands and is not on the line. -/
theorem flushes_of_outboundItem {c : Sched} {live done stay : List Operation} {op : Operation} {id : ItemId}
    (h : Completed (fun op => c.flushes op = true) live done stay) (hop : op ∈ done) (hid : op.outboundItem = some id) :
    c.holds id = true ∧ c.onLine ≠ .item id := by
  rcases fits_or_cancel_of_completed h op hop with hfits | ⟨o, l, hcancel⟩
  · obtain ⟨_, hid', hflushed⟩ := (c.flushes_iff op).1 hfits
    cases hid.symm.trans hid'
    exact hflushed
  · simp [Operation.outboundItem, hcancel] at hid

/-- The lists and the marks of the station's scheduler are sound. -/
def State.SchedSound (s : State) : Prop := SchedulerSound s.sched

namespace State
variable (s : State)

/-! ### Operations that leave the scheduler alone -/

@[simp] theorem schedSound_withSettings (x : Option Settings) : (s.withSettings x).SchedSound ↔ s.SchedSound := Iff.rfl
@[simp] theorem schedSound_withPli (x : Pli) : (s.withPli x).SchedSound ↔ s.SchedSound := Iff.rfl
@[simp] theorem schedSound_withIntake (x : Intake) : (s.withIntake x).SchedSound ↔ s.SchedSound := Iff.rfl
@[simp] theorem schedSound_withOps (x : OpsUnit) : (s.withOps x).SchedSound ↔ s.SchedSound := Iff.rfl
@[simp] theorem schedSound_withMonitor (x : Monitor) : (s.withMonitor x).SchedSound ↔ s.SchedSound := Iff.rfl
@[simp] theorem schedSound_withJoin (x : JoinControl) : (s.withJoin x).SchedSound ↔ s.SchedSound := Iff.rfl
@[simp] theorem schedSound_withPort (x : HostPort) : (s.withPort x).SchedSound ↔ s.SchedSound := Iff.rfl
@[simp] theorem schedSound_withHand (x : HandOvers) : (s.withHand x).SchedSound ↔ s.SchedSound := Iff.rfl

@[simp] theorem schedSound_ite (p : Prop) [Decidable p] (a b : State) :
    (if p then a else b).SchedSound ↔ if p then a.SchedSound else b.SchedSound := by
  split <;> exact Iff.rfl

@[simp] theorem schedSound_answer (k : RequestKind) (bytes : List Byte) (code : ResultCode) (data : List Byte) :
    (s.answer k bytes code data).SchedSound ↔ s.SchedSound := Iff.rfl

@[simp] theorem schedSound_addHold (o : Owner) (l : Byte) (m : Mode) :
    (s.addHold o l m).SchedSound ↔ s.SchedSound := Iff.rfl

@[simp] theorem schedSound_setPhase (o : Owner) (l : Byte) (p : AcquirePhase) :
    (s.setPhase o l p).SchedSound ↔ s.SchedSound := Iff.rfl

@[simp] theorem schedSound_movePhase (o : Owner) (l : Byte) (a b : AcquirePhase) :
    (s.movePhase o l a b).SchedSound ↔ s.SchedSound := Iff.rfl

@[simp] theorem schedSound_attach (tag : Byte) (o : Owner) (l : Byte) :
    (s.attach tag o l).SchedSound ↔ s.SchedSound := Iff.rfl

@[simp] theorem schedSound_setBuffer (b : RequestBuffer) : (s.setBuffer b).SchedSound ↔ s.SchedSound := Iff.rfl
@[simp] theorem schedSound_popFrame : s.popFrame.SchedSound ↔ s.SchedSound := Iff.rfl
@[simp] theorem schedSound_popNotice : s.popNotice.SchedSound ↔ s.SchedSound := Iff.rfl
@[simp] theorem schedSound_popOps : s.popOps.SchedSound ↔ s.SchedSound := Iff.rfl
@[simp] theorem schedSound_popJoin : s.popJoin.SchedSound ↔ s.SchedSound := Iff.rfl
@[simp] theorem schedSound_setDropCause (r : DropReason) : (s.setDropCause r).SchedSound ↔ s.SchedSound := Iff.rfl
@[simp] theorem schedSound_loadJoinWait : s.loadJoinWait.SchedSound ↔ s.SchedSound := Iff.rfl
@[simp] theorem schedSound_setJoinWait (t : Timer) : (s.setJoinWait t).SchedSound ↔ s.SchedSound := Iff.rfl
@[simp] theorem schedSound_loadOwnSilence : s.loadOwnSilence.SchedSound ↔ s.SchedSound := Iff.rfl
@[simp] theorem schedSound_undefinedRead : s.undefinedRead.SchedSound ↔ s.SchedSound := Iff.rfl

@[simp] theorem schedSound_kindByte (b : Byte) : (s.kindByte b).SchedSound ↔ s.SchedSound := by
  unfold kindByte
  split <;> exact Iff.rfl

@[simp] theorem schedSound_argumentByte (b : Byte) : (s.argumentByte b).SchedSound ↔ s.SchedSound := by
  unfold argumentByte
  split <;> exact Iff.rfl

@[simp] theorem schedSound_replyByte : s.replyByte.SchedSound ↔ s.SchedSound := by
  unfold replyByte
  split <;> exact Iff.rfl

@[simp] theorem schedSound_enter (st : StationState) : (s.enter st).SchedSound ↔ s.SchedSound := by
  unfold enter
  split <;> exact Iff.rfl

@[simp] theorem schedSound_setLone (b : Bool) : (s.setLone b).SchedSound ↔ s.SchedSound := by
  unfold setLone
  split <;> exact Iff.rfl

@[simp] theorem schedSound_clearLone (h : MonitorHandOver) : (s.clearLone h).SchedSound ↔ s.SchedSound := by
  unfold clearLone
  split <;> simp

@[simp] theorem schedSound_discardReplica : s.discardReplica.SchedSound ↔ s.SchedSound := by
  unfold discardReplica
  split <;> exact Iff.rfl

@[simp] theorem schedSound_complete (fits : Operation → Bool) (code : ResultCode) :
    (s.complete fits code).SchedSound ↔ s.SchedSound := by
  unfold complete
  split <;> exact Iff.rfl

@[simp] theorem schedSound_completeAcquire (o : Owner) (l : Byte) (code cancelCode : ResultCode) :
    (s.completeAcquire o l code cancelCode).SchedSound ↔ s.SchedSound := by
  unfold completeAcquire
  split
  · exact Iff.rfl
  · split <;> simp

@[simp] theorem schedSound_noticeOnLine (n : Notice) : (s.noticeOnLine n).SchedSound ↔ s.SchedSound := by
  unfold noticeOnLine
  split <;> exact Iff.rfl

@[simp] theorem schedSound_noticeAccepted (n : Notice) : (s.noticeAccepted n).SchedSound ↔ s.SchedSound := by
  unfold noticeAccepted
  split <;> exact Iff.rfl

@[simp] theorem schedSound_freeOutcome (o : Owner) (l : Byte) (out : FreeOutcome) :
    (s.freeOutcome o l out).SchedSound ↔ s.SchedSound := by
  simp [freeOutcome]

@[simp] theorem schedSound_withdrawOutcome (o : Owner) (l : Byte) (out : WithdrawOutcome) :
    (s.withdrawOutcome o l out).SchedSound ↔ s.SchedSound := by
  unfold withdrawOutcome
  split
  · exact Iff.rfl
  · split
    · split
      · simp
      · split <;> simp
    · exact Iff.rfl

@[simp] theorem schedSound_handOn (f : Frame) (a : Applied) : (s.handOn f a).SchedSound ↔ s.SchedSound := by
  simp only [handOn]
  split <;> cases a.epoch <;> exact Iff.rfl

@[simp] theorem schedSound_configure (bytes : List Byte) : (s.configure bytes).SchedSound ↔ s.SchedSound := by
  simp [configure]

@[simp] theorem schedSound_edge (x : TickSource) : (s.edge x).SchedSound ↔ s.SchedSound := by
  cases x <;> exact Iff.rfl

@[simp] theorem schedSound_tick (quiet : Bool) : (s.tick quiet).SchedSound ↔ s.SchedSound := Iff.rfl

@[simp] theorem schedSound_countOwnVeto : s.countOwnVeto.SchedSound ↔ s.SchedSound := by
  unfold countOwnVeto
  split <;> exact Iff.rfl

@[simp] theorem schedSound_countGivenVeto : s.countGivenVeto.SchedSound ↔ s.SchedSound := by
  unfold countGivenVeto
  split <;> exact Iff.rfl

/-! ### Operations that use the scheduler's own -/

section
variable {s} (h : s.SchedSound)
include h

@[simp] theorem schedSound_queueControl (i : ControlItem) : (s.queueControl i).SchedSound := h.queueControl i
@[simp] theorem schedSound_queueLock (i : LockItem) : (s.queueLock i).SchedSound := h.queueLock i
@[simp] theorem schedSound_askRemoval (id : ItemId) : (s.askRemoval id).SchedSound := h.remove id

@[simp] theorem schedSound_settleAlive : s.settleAlive.SchedSound := by
  unfold settleAlive
  split <;> simp [h]

/-! #### Operations Unit -/

@[simp] theorem schedSound_beginWithdraw (o : Owner) (l : Byte) (c : WithdrawCause) :
    (s.beginWithdraw o l c).SchedSound := by simp [beginWithdraw, h]

@[simp] theorem schedSound_claimOutcome (o : Owner) (l : Byte) (out : ClaimOutcome) :
    (s.claimOutcome o l out).SchedSound := by
  unfold claimOutcome
  split
  · exact h
  · split
    · exact h
    · split <;> simp [h]

@[simp] theorem schedSound_grantNotice (o : Owner) (l : Byte) (m : Mode) : (s.grantNotice o l m).SchedSound := by
  unfold grantNotice
  split
  · exact h
  · split <;> simp [h]

@[simp] theorem schedSound_cancelOutbound (o : Owner) (l : Byte) : (s.cancelOutbound o l).SchedSound := by
  have hremoved : (s.withSched (s.sched.remove (.lock .claim o l)).1).SchedSound := h.remove _
  simp only [cancelOutbound]
  split <;> simp [hremoved]

@[simp] theorem schedSound_noticeVetoed (n : Notice) (removed : Bool) : (s.noticeVetoed n removed).SchedSound := by
  unfold noticeVetoed claimVetoed
  split
  · split
    · simp [h]
    · split <;> simp [h]
  · exact h
  · exact h

/-! #### Presence Monitor -/

@[simp] theorem schedSound_testEviction (v : Station) : (s.testEviction v).SchedSound := by
  simp [testEviction, queueEvict, h]

/-- What each round of a loop keeps sound, the loop keeps sound. -/
theorem schedSound_foldl {α : Type} {f : State → α → State} (hf : ∀ s a, s.SchedSound → (f s a).SchedSound)
    (l : List α) : (l.foldl f s).SchedSound := by
  induction l generalizing s with
  | nil => exact h
  | cons a l ih => exact ih (hf s a h)

@[simp] theorem schedSound_removeEvicts (x : MonitorHandOver) : (s.removeEvicts x).SchedSound :=
  schedSound_foldl h (fun s v hs => by simp [hs]) _

@[simp] theorem schedSound_retest : s.retest.SchedSound := schedSound_foldl h (fun s v hs => by simp [hs]) _

@[simp] theorem schedSound_presenceHandOver (x : MonitorHandOver) : (s.presenceHandOver x).SchedSound := by
  simp [presenceHandOver, h]

/-! #### Join Controller -/

@[simp] theorem schedSound_queueMembership (k : MembershipKind) : (s.queueMembership k).SchedSound := h.queueControl _

@[simp] theorem schedSound_evaluateDuty (donor head : Option Station) : (s.evaluateDuty donor head).SchedSound := by
  simp only [evaluateDuty]
  split
  · simp [h]
  · split <;> simp [h]

@[simp] theorem schedSound_becomeMember : s.becomeMember.SchedSound := by simp [becomeMember, completeJoin, h]

@[simp] theorem schedSound_sendJoin : s.sendJoin.SchedSound := by simp [sendJoin, h]

@[simp] theorem schedSound_enterJoining : s.enterJoining.SchedSound := by simp [enterJoining, h]

@[simp] theorem schedSound_turnToJoining : s.turnToJoining.SchedSound := by
  have hreplaced : (s.withSched (s.sched.replaceMembership .join)).SchedSound := h.replaceMembership _
  unfold turnToJoining
  split <;> simp [h, hreplaced]

@[simp] theorem schedSound_followRecord : s.followRecord.SchedSound := by
  unfold followRecord
  split <;> simp [h]

@[simp] theorem schedSound_earlySnapshot : s.earlySnapshot.SchedSound := by
  have hremoved : (s.withSched (s.sched.remove (.control .membership)).1).SchedSound := h.remove _
  simp only [earlySnapshot]
  split <;> simp [hremoved]

@[simp] theorem schedSound_leaveMemberless : s.leaveMemberless.SchedSound := by simp [leaveMemberless, h]

omit h in
/-- A drop leaves the lists empty. -/
theorem schedSound_drop (r : DropReason) : (s.drop r).SchedSound := by
  simp only [drop, schedSound_withHand]
  exact SchedulerSound.dropped

/-! #### The line -/

/-- What wins a bid stands in a list, or is the ALIVE of no list (03 R54). -/
theorem schedSound_winBid : s.winBid.SchedSound := by
  cases hc : s.candidate with
  | none =>
    rw [winBid_no_candidate hc]
    exact h.wonUnlisted
  | some id =>
    rw [winBid_candidate hc]
    exact h.won (Sched.holds_of_candidate hc)

theorem schedSound_releaseLine : s.releaseLine.SchedSound := h.offLine

theorem schedSound_acceptFrame : s.acceptFrame.SchedSound := by
  have hheard : s.acceptHeard.SchedSound := h
  have haccepted : s.acceptHeard.ownAccepted.SchedSound := by
    rw [ownAccepted_eq]
    exact hheard.accepted
  simp [acceptFrame_eq, hheard, haccepted, schedSound_releaseLine hheard]

theorem schedSound_vetoFrame (e : Bool) : (s.vetoFrame e).SchedSound := by
  have hvetoed : s.ownVetoed.SchedSound := by
    rw [ownVetoed_eq]
    exact h.vetoed
  simp [vetoFrame, h, hvetoed, schedSound_releaseLine h]

/-! #### Requests -/

/-- The items that the flush removes are not on the line (06 R107). -/
@[simp] theorem schedSound_flushOutbound : s.flushOutbound.SchedSound := by
  refine h.takeLocks fun id hid => ?_
  obtain ⟨op, hop, hitem⟩ := List.mem_filterMap.1 hid
  exact (flushes_of_outboundItem (flushed_completed s.sched s.ops.live) hop hitem).2

@[simp] theorem schedSound_startLeaving (tag : Byte) : (s.startLeaving tag).SchedSound := by
  have hentered : (s.enter .leaving).SchedSound := (schedSound_enter s .leaving).2 h
  have hduty := schedSound_evaluateDuty hentered (s.enter .leaving).replica.donor
    (s.enter .leaving).replica.joinList.head?
  simp only [startLeaving, schedSound_withOps]
  exact schedSound_flushOutbound (schedSound_queueMembership hduty .leave)

@[simp] theorem schedSound_cancelTarget (tag : Byte) (a : Acquire) : (s.cancelTarget tag a).SchedSound := by
  unfold cancelTarget
  split <;> simp [h]

/-- A request keeps sound what its decision keeps sound. -/
theorem schedSound_takeRequest (k : RequestKind) {decision : List Byte → State → State}
    (hdecision : ∀ bytes s, s.SchedSound → (decision bytes s).SchedSound) : (s.takeRequest k decision).SchedSound := by
  unfold takeRequest
  split
  · exact h
  · simp [h, hdecision]

variable (bytes : List Byte)

@[simp] theorem schedSound_decideSetup : (decideSetup bytes s).SchedSound := by simp [decideSetup, h]

@[simp] theorem schedSound_decideJoin : (decideJoin bytes s).SchedSound := by simp [decideJoin, h]

@[simp] theorem schedSound_decideDetach : (decideDetach bytes s).SchedSound := by
  unfold decideDetach
  split <;> simp [h]

@[simp] theorem schedSound_decideAcquire : (decideAcquire bytes s).SchedSound := by
  simp only [decideAcquire]
  split_ifs
  · exact h
  · exact h
  · exact h
  · split
    · simp [reenter, h]
    · simp [newClaim, sendClaim, h]

@[simp] theorem schedSound_decideRelease : (decideRelease bytes s).SchedSound := by
  unfold decideRelease
  split
  · exact h
  · split
    · exact h
    · simp [releaseHeld, h]

@[simp] theorem schedSound_decideCancel : (decideCancel bytes s).SchedSound := by
  unfold decideCancel
  split
  · exact h
  · split <;> simp [h]

@[simp] theorem schedSound_decideQueryLock : (decideQueryLock bytes s).SchedSound := by simp [decideQueryLock, h]

@[simp] theorem schedSound_decideAck : (decideAck bytes s).SchedSound := by simp [decideAck, h]

end
end State

/-! ### Every command -/

namespace State.SchedSound
variable {s t : State} (hs : s.SchedSound)
include hs

/-- A command that takes place only while the part runs. -/
theorem of_whenRunning {f : State → State} (ht : s.whenRunning f = .next t) (h : (f s).SchedSound) : t.SchedSound := by
  cases hr : s.resetHeld
  · rw [State.whenRunning_of_released s f hr] at ht
    cases ht
    exact h
  · rw [State.whenRunning_of_held s f hr] at ht
    cases ht
    exact hs

/-- An application leaves the scheduler alone, but for the ALIVE that an idle one is given (08 R140). -/
theorem of_applyHead {k : FrameKind} {effect : Frame → State → Option Applied}
    (ht : (s.whenRunning fun s => s.applyHead k effect) = .next t) : t.SchedSound := by
  refine hs.of_whenRunning ht ?_
  unfold State.applyHead
  split
  · split
    · split <;> simp [hs]
    · exact hs
  · exact hs

theorem windowClose {slots : BitVec 16} {frameStart : Bool} (ht : execWindowClose slots frameStart s = .next t) :
    t.SchedSound := by
  refine hs.of_whenRunning ht ?_
  split
  · split
    · exact hs
    · simp [hs, schedSound_winBid hs]
  · exact hs

theorem vetoSlotEnd {markE markF inPlace : Bool} (ht : execVetoSlotEnd markE markF inPlace s = .next t) :
    t.SchedSound := by
  refine hs.of_whenRunning ht ?_
  split
  · apply schedSound_settleAlive
    simp [schedSound_vetoFrame hs, schedSound_acceptFrame hs]
  · exact hs

theorem joinWaitExpiry (ht : execJoinWaitExpiry s = .next t) : t.SchedSound := by
  refine hs.of_whenRunning ht ?_
  split
  · split <;> simp [hs]
  · exact hs

theorem drop (ht : execDrop s = .next t) : t.SchedSound := by
  refine hs.of_whenRunning ht ?_
  split
  · simp [hs, schedSound_drop]
  · exact hs

theorem resetRelease {p : Straps} (ht : execResetRelease p s = .next t) : t.SchedSound := by
  rw [execResetRelease] at ht
  split at ht <;> cases ht
  · exact SchedulerSound.empty nofun
  · exact hs

/-- What every command keeps: those of the line, the applications and the requests first, then those that one block
takes by itself. -/
theorem of_exec (i : Instr) (ht : exec i s = .next t) : t.SchedSound := by
  unfold Machine.exec at ht
  cases i with
  | hardwareReset => cases ht; exact hs
  | resetRelease p => exact hs.resetRelease ht
  | windowClose slots frameStart => exact hs.windowClose ht
  | vetoSlotEnd markE markF inPlace => exact hs.vetoSlotEnd ht
  | drop => exact hs.drop ht
  | joinWaitExpiry => exact hs.joinWaitExpiry ht
  | applyClaim | applyFree | applyWithdraw | applyJoin | applyFound | applyLeave | applyEvict | applyRefuse
  | applySnaphead | applySnapdata | applyAlive => exact hs.of_applyHead ht
  | setup | join | detach | acquire | release | cancel | queryLock | ack =>
    exact hs.of_whenRunning ht (schedSound_takeRequest hs _ fun _ _ h => by simp [h])
  | queryMembers | queryStation => exact hs.of_whenRunning ht (schedSound_takeRequest hs _ fun _ _ h => h)
  | frameEnd | idleMeasureExpiry | lineIdleGap | dominantPulse | startMark | ownSlotBegins =>
    refine hs.of_whenRunning ht ?_
    split <;> exact hs
  | lockFrameVetoed =>
    refine hs.of_whenRunning ht ?_
    split
    · split <;> simp [hs]
    · exact hs
  | tick | waitTimerExpiry | ownSilenceExpiry | silenceCountdownExpiry | isolationExpiry | rejoinTimerExpiry
  | claimOutcome | freeOutcome | withdrawOutcome | grantNotice | lockFrameOnLine | lockFrameAccepted | ownJoinApplied
  | ownFoundApplied | otherFoundApplied | ownSnapheadTaken | ownSnapdataTaken | membershipItemRemoved | refuseTaken
  | ownLeaveApplied | evictNamingSelf | donorDutyEvaluation | presenceHandOver | kindByteWrite | argumentByteWrite
  | replyRead =>
    refine hs.of_whenRunning ht ?_
    split <;> simp [hs]

end State.SchedSound
end Sys2Proof.Machine

namespace Sys2Proof.SendScheduler
open Sys2Proof.Machine Sys2Proof.Safety

/-- Settles O55: each command uses the scheduler through its own operations alone, and each of these keeps the lists and
the marks sound. -/
theorem schedulerStaysSound : Obligations.SchedulerStaysSound := by
  intro s t ht hs
  unfold step at ht
  split at ht
  · cases ht
    exact hs
  · next c rest _ => exact State.SchedSound.of_exec (s := s.withPending rest) hs c ht

end Sys2Proof.SendScheduler
end


section
/-! PROOFS. JOIN and FOUND at the station that asks (09 R156, R157, R161, R162): entries into the station states, and
what the Join Controller makes of an application that concerns it. -/
namespace Sys2Proof.Machine
open Sys2Proof.Safety

section
variable {s : State}

/-! ### Entries into the station states (09 R152) -/

/-- Among the sub-states of one state no STATE is set. -/
theorem State.enter_of_code_eq {st : StationState} (h : s.join.state.code = st.code) :
    s.enter st = { s with join := { s.join with state := st } } := by
  simp only [State.enter, if_pos h]
  rfl

theorem State.enter_of_code_ne {st : StationState} (h : s.join.state.code ≠ st.code) :
    s.enter st = { s with
      join := { s.join with state := st }, port := { s.port with attention := s.port.attention ||| 1 } } := by
  simp only [State.enter, if_neg h]
  rfl

/-- The states with an outstanding JOIN or FOUND (09 Table 9-1). -/
theorem StationState.asking_iff (st : StationState) : st.asking = true ↔ st = .founding ∨ st = .joining .sendJoin := by
  cases st with
  | joining sub => cases sub <;> simp [asking]
  | _ => simp [asking]

/-- A station that asks waits for the head of the fabric, its join wait loaded (09 R156, R157). -/
theorem State.awaitHead_of_asking (h : s.join.state = .founding ∨ s.join.state = .joining .sendJoin) :
    (s.enter (.joining .awaitHead)).loadJoinWait = { s with
      join := { s.join with state := .joining .awaitHead, joinWait := .running s.joinWaitTicks }
      port := if s.join.state = .founding then { s.port with attention := s.port.attention ||| 1 } else s.port } := by
  rcases h with h | h
  · rw [State.enter_of_code_ne (by simp [h, StationState.code]), if_pos h]
    rfl
  · rw [State.enter_of_code_eq (by simp [h, StationState.code]), if_neg (by simp [h])]
    rfl

/-! ### The first FOUND of another station (09 R161) -/

theorem State.turnToJoining_founding (h : s.join.state = .founding) :
    s.turnToJoining = { s with
      join := { s.join with state := .joining .sendJoin }
      port := { s.port with attention := s.port.attention ||| 1 }
      sched := s.sched.replaceMembership .join } := by
  simp only [State.turnToJoining, h]
  exact State.enter_of_code_ne (s := s.withSched (s.sched.replaceMembership .join)) (by simp [h, StationState.code])

theorem State.turnToJoining_awaitHead (h : s.join.state = .joining .awaitHead) :
    s.turnToJoining = { s with
      join := { s.join with state := .joining .sendJoin, joinWait := .stopped }
      sched := s.sched.queueControl (.membership .join) } := by
  simp only [State.turnToJoining, h, State.sendJoin]
  rw [State.enter_of_code_eq (by simp [h, StationState.code])]
  rfl

theorem State.turnToJoining_sendJoin (h : s.join.state = .joining .sendJoin) : s.turnToJoining = s := by
  simp only [State.turnToJoining, h]

end

/-! ### What the Join Controller takes -/

/-- The state with the oldest hand-over to the Join Controller taken. -/
abbrev State.joinTaken (s : State) (rest : List JoinHandOver) : State := { s with hand := { s.hand with join := rest } }

/-- The state with another's first FOUND taken: the latch is set. -/
abbrev State.foundSeen (s : State) (rest : List JoinHandOver) : State :=
  { s.joinTaken rest with join := { s.join with latch := true } }

theorem State.popJoin_eq {s : State} {x : JoinHandOver} {rest : List JoinHandOver} (h : s.hand.join = x :: rest) :
    s.popJoin = s.joinTaken rest := by
  simp only [State.popJoin, h]
  rfl

section
variable {s : State} {rest : List JoinHandOver} (hr : s.resetHeld = false)
include hr

theorem execOwnJoinApplied_sendJoin (hjoin : s.hand.join = .ownJoin :: rest)
    (hstate : s.join.state = .joining .sendJoin) :
    execOwnJoinApplied s = .next (((s.joinTaken rest).enter (.joining .awaitHead)).loadJoinWait) := by
  simp [execOwnJoinApplied, State.whenRunning_of_released s _ hr, State.popJoin_eq hjoin, hjoin, hstate]

theorem execOwnFoundApplied_asking {created : Bool} (hjoin : s.hand.join = .ownFound created :: rest)
    (hstate : s.join.state = .founding ∨ s.join.state = .joining .sendJoin) :
    execOwnFoundApplied s = .next
      (if created then (s.joinTaken rest).becomeMember
        else ((s.joinTaken rest).enter (.joining .awaitHead)).loadJoinWait) := by
  have hasking : s.join.state.asking = true := s.join.state.asking_iff.2 hstate
  simp [execOwnFoundApplied, State.whenRunning_of_released s _ hr, State.popJoin_eq hjoin, hjoin, hasking]

theorem execOtherFoundApplied_latched (hjoin : s.hand.join = .otherFound :: rest) (hlatch : s.join.latch = true) :
    execOtherFoundApplied s = .next (s.joinTaken rest) := by
  simp [execOtherFoundApplied, State.whenRunning_of_released s _ hr, State.popJoin_eq hjoin, hjoin, hlatch]

/-- The first FOUND of another station sets the latch and turns a station that founds or waits to joining. -/
theorem execOtherFoundApplied_first (hjoin : s.hand.join = .otherFound :: rest) (hlatch : s.join.latch = false)
    (hstate : s.join.state.seeking = true) : execOtherFoundApplied s = .next (s.foundSeen rest).turnToJoining := by
  simp [execOtherFoundApplied, State.whenRunning_of_released s _ hr, State.popJoin_eq hjoin, hjoin, hlatch, hstate,
    State.withJoin]

end
end Sys2Proof.Machine

namespace Sys2Proof.SendScheduler
open Sys2Proof.Machine Sys2Proof.Safety

/-- Settles O35: the own JOIN and FOUND by what they came to, another's FOUND by the latch and the station's state. -/
theorem joinAndFoundApplicationsMoveTheStation : Obligations.JoinAndFoundApplicationsMoveTheStation := by
  refine ⟨fun s rest hr => ⟨fun hjoin hstate => ?_, fun hjoin hstate => ?_, fun hjoin hstate => ?_⟩,
    fun s rest hr hjoin => ⟨fun hlatch => execOtherFoundApplied_latched hr hjoin hlatch, fun hlatch hstate => ?_,
      fun hlatch hstate => ?_, fun hlatch hstate => ?_⟩⟩
  · refine (execOwnJoinApplied_sendJoin hr hjoin hstate).trans (congrArg _ ?_)
    rw [State.awaitHead_of_asking (s := s.joinTaken rest) (.inr hstate), if_neg (by simp [hstate])]
    rfl
  · refine (execOwnFoundApplied_asking hr hjoin hstate).trans (congrArg _ ?_)
    exact State.awaitHead_of_asking (s := s.joinTaken rest) hstate
  · exact ⟨_, execOwnFoundApplied_asking hr hjoin hstate, (s.joinTaken rest).becomeMember_enters⟩
  · refine (execOtherFoundApplied_first hr hjoin hlatch (by simp [hstate, StationState.seeking])).trans (congrArg _ ?_)
    exact State.turnToJoining_founding (s := s.foundSeen rest) hstate
  · refine (execOtherFoundApplied_first hr hjoin hlatch (by simp [hstate, StationState.seeking])).trans (congrArg _ ?_)
    exact State.turnToJoining_awaitHead (s := s.foundSeen rest) hstate
  · refine (execOtherFoundApplied_first hr hjoin hlatch (by simp [hstate, StationState.seeking])).trans (congrArg _ ?_)
    exact State.turnToJoining_sendJoin (s := s.foundSeen rest) hstate

end Sys2Proof.SendScheduler
end


section
/-! PROOFS. The requests JOIN and DETACH (09 R153, R154, R169): the entry into JOINING, and at a DETACH the end of donor
duty, the LEAVE and the flush (06 R107, 07 R133). -/
namespace Sys2Proof.Machine
open Sys2Proof.Safety

/-! ### The items of the flush (06 R107) -/

/-- The lock-list item of an operation in OUTBOUND. -/
theorem outboundWith_iff (op : Operation) (id : ItemId) : outboundWith op id = true ↔ op.outboundItem = some id := by
  obtain ⟨tag, body⟩ := op
  cases id with
  | control p => cases body <;> simp [outboundWith, Operation.outboundItem]
  | lock k o l => cases body <;> cases k <;> simp [outboundWith, Operation.outboundItem, and_assoc]

theorem contains_outboundItems (gone : List Operation) (id : ItemId) :
    (gone.filterMap Operation.outboundItem).contains id = gone.any fun op => outboundWith op id := by
  rw [Bool.eq_iff_iff, List.contains_iff_mem, List.mem_filterMap, List.any_eq_true]
  simp only [outboundWith_iff]

namespace Sched
variable (c : Sched)

/-- The flush looks at the lock list and at what is on the line. -/
theorem flushes_congr {d : Sched} (hlocks : d.locks = c.locks) (hline : d.onLine = c.onLine) :
    d.flushes = c.flushes := by
  have hholds (k : LockKind) (o : Owner) (l : Byte) : d.holds (.lock k o l) = c.holds (.lock k o l) := by
    rw [Bool.eq_iff_iff, holds_lock, holds_lock, hlocks]
  funext op
  rw [Bool.eq_iff_iff, flushes_iff, flushes_iff, hline]
  refine exists_congr fun id => and_congr_right fun hid => ?_
  cases id with
  | lock k o l => rw [hholds]
  | control p => exact absurd ((outboundWith_iff op _).2 hid) (by cases hb : op.body <;> simp [outboundWith, hb])

theorem queueControl_locks (i : ControlItem) : (c.queueControl i).locks = c.locks := by
  unfold queueControl
  split <;> rfl

theorem queueControl_onLine (i : ControlItem) : (c.queueControl i).onLine = c.onLine := by
  unfold queueControl
  split <;> rfl

/-! ### The end of donor duty (09 R167) -/

/-- The retry mark after the end of donor duty. -/
def dutyRetry : Option ItemId :=
  if c.holds (.control .donor) = true ∧ c.onLine ≠ .item (.control .donor) ∧ c.retry = some (.control .donor) then none
  else c.retry

/-- The scheduler after the end of donor duty: the donor item is taken back, or rescinded on the line. -/
def dutyEnded : Sched :=
  { c with
    control := if c.onLine = .item (.control .donor) then c.control else c.control.filter fun i => i.purpose ≠ .donor
    retry := c.dutyRetry
    rescinded := c.rescinded || (c.holds (.control .donor) && decide (c.onLine = .item (.control .donor))) }

theorem remove_donor_eq (h : c.holds (.control .donor) = true) : (c.remove (.control .donor)).1 = c.dutyEnded := by
  by_cases hline : c.onLine = .item (.control .donor)
  · rw [c.remove_on_line _ hline]
    simp [dutyEnded, dutyRetry, hline, h]
  · have hlocks := c.take_locks .donor
    rw [c.remove_listed _ hline h]
    simp only [take] at hlocks
    simp [take, hlocks, dutyEnded, dutyRetry, hline, h, ControlItem.id]

/-- Without a donor item there is none to take back. -/
theorem dutyEnded_of_no_donor (h : c.holds (.control .donor) = false) : c.dutyEnded = c := by
  have hnone : ∀ i ∈ c.control, i.purpose ≠ .donor := by
    rw [← Bool.not_eq_true, holds_control] at h
    simpa using h
  have hfilter : (c.control.filter fun i => decide (i.purpose ≠ .donor)) = c.control := by
    simpa using hnone
  unfold dutyEnded dutyRetry
  rw [hfilter]
  simp [h]

/-! ### The LEAVE and the flush (09 R169, 06 R107) -/

theorem holds_membership_dutyEnded : c.dutyEnded.holds (.control .membership) = c.holds (.control .membership) := by
  rw [Bool.eq_iff_iff, holds_control, holds_control]
  by_cases hline : c.onLine = .item (.control .donor)
  · simp [dutyEnded, hline]
  · simp only [dutyEnded, if_neg hline, List.mem_filter, decide_eq_true_eq]
    refine exists_congr fun i => and_congr_left fun hi => and_iff_left ?_
    simp [hi]

/-- The scheduler after a DETACH at which these operations reply LEFT. -/
def leaving (gone : List Operation) : Sched :=
  { c.dutyEnded with
    control := c.dutyEnded.control ++ if c.holds (.control .membership) = true then [] else [.membership .leave]
    locks := c.locks.filter fun i => !gone.any fun op => outboundWith op i.id
    retry := c.dutyRetry.filter fun id => !gone.any fun op => outboundWith op id }

theorem takeLocks_queueControl_dutyEnded (gone : List Operation) :
    (c.dutyEnded.queueControl (.membership .leave)).takeLocks (gone.filterMap Operation.outboundItem)
      = c.leaving gone := by
  have hqueued : c.dutyEnded.queueControl (.membership .leave) =
      { c.dutyEnded with
        control := c.dutyEnded.control
          ++ if c.holds (.control .membership) = true then [] else [.membership .leave] } := by
    rw [← c.holds_membership_dutyEnded]
    cases hm : c.dutyEnded.holds (.control .membership)
    · rw [queueControl_new _ _ hm]
      rfl
    · rw [queueControl_held _ _ hm]
      simp
  rw [hqueued]
  simp only [takeLocks, contains_outboundItems]
  rfl

/-- A mark that names the donor item taken back, or an item of the flush, names none. -/
theorem leaving_retry_none {gone : List Operation} {id : ItemId} (hretry : c.retry = some id)
    (hholds : c.holds id = true)
    (h : (id = .control .donor ∧ c.onLine ≠ .item (.control .donor)) ∨ ∃ op ∈ gone, outboundWith op id = true) :
    (c.leaving gone).retry = none := by
  have hduty : c.dutyRetry = none ∨ c.dutyRetry = some id := by
    unfold dutyRetry
    split
    · exact .inl rfl
    · exact .inr hretry
  show c.dutyRetry.filter _ = none
  rcases h with ⟨rfl, hline⟩ | hgone
  · have hnone : c.dutyRetry = none := if_pos ⟨hholds, hline, hretry⟩
    rw [hnone]
    rfl
  · rcases hduty with hduty | hduty <;> simp [hduty, Option.filter, hgone]

/-- Any other mark stands. -/
theorem leaving_retry_stands {gone : List Operation}
    (h : ∀ id, c.retry = some id → id ≠ .control .donor ∧ ∀ op ∈ gone, outboundWith op id = false) :
    (c.leaving gone).retry = c.retry := by
  have hduty : c.dutyRetry = c.retry := if_neg fun ⟨_, _, hretry⟩ => (h _ hretry).1 rfl
  show c.dutyRetry.filter _ = c.retry
  rw [hduty]
  cases hr : c.retry with
  | none => rfl
  | some id =>
    obtain ⟨-, hgone⟩ := h id hr
    exact Option.filter_some_pos (by simpa using hgone)

end Sched

theorem State.evaluateDuty_of_not_member {s : State} (donor head : Option Station) (h : s.join.state ≠ .member) :
    s.evaluateDuty donor head = { s with join := { s.join with duty := false }, sched := s.sched.dutyEnded } := by
  cases hd : s.sched.holds (.control .donor)
  · simp [State.evaluateDuty, h, hd, Sched.dutyEnded_of_no_donor, State.withJoin]
  · simp [State.evaluateDuty, h, hd, State.askRemoval, Sched.remove_donor_eq, State.withJoin, State.withSched]

/-- The flush of a scheduler that is as that of c but for its control list and its marks. -/
theorem State.flushOutbound_eq (s : State) (c : Sched) (hlocks : s.sched.locks = c.locks)
    (hline : s.sched.onLine = c.onLine) :
    s.flushOutbound = { s with
      ops := { s.ops with live := (completions c.flushes s.ops.live.length s.ops.live).2 }
      sched := s.sched.takeLocks
        ((completions c.flushes s.ops.live.length s.ops.live).1.filterMap Operation.outboundItem)
      port := { s.port with
        replies := s.port.replies ++ (completions c.flushes s.ops.live.length s.ops.live).1.map fun op =>
          ⟨op.tag, op.body.kind, .left, []⟩ } } := by
  rw [← c.flushes_congr hlocks hline]
  rfl

/-- The DETACH taken in MEMBER, with the operations that its flush completes (09 R169). -/
theorem State.startLeaving_eq {s : State} (tag : Byte) (h : s.join.state = .member) :
    s.startLeaving tag = { s with
      ops := { s.ops with
        live := (completions s.sched.flushes s.ops.live.length s.ops.live).2 ++ [⟨tag, .detach⟩] }
      join := { s.join with state := .leaving, duty := false }
      port := { s.port with
        attention := s.port.attention ||| 1
        replies := s.port.replies ++ (completions s.sched.flushes s.ops.live.length s.ops.live).1.map fun op =>
          ⟨op.tag, op.body.kind, .left, []⟩ }
      sched := s.sched.leaving (completions s.sched.flushes s.ops.live.length s.ops.live).1 } := by
  have henter := State.enter_of_code_ne (s := s) (st := .leaving) (by simp [h, StationState.code])
  have hlocks := s.sched.dutyEnded.queueControl_locks (.membership .leave)
  have hline := s.sched.dutyEnded.queueControl_onLine (.membership .leave)
  simp only [State.startLeaving, henter, State.evaluateDuty_of_not_member, ne_eq, reduceCtorEq, not_false_eq_true]
  rw [State.flushOutbound_eq _ s.sched hlocks hline]
  simp only [State.queueMembership, State.queueControl, State.withSched, Sched.takeLocks_queueControl_dutyEnded]
  rfl

/-! ### The requests are taken (07 R111) -/

/-- A request that stands after SETUP leaves the buffer and is decided. -/
theorem takeRequest_decides {s : State} {k : RequestKind} {bytes : List Byte} (decision : List Byte → State → State)
    (hstands : Standing s k bytes) (hstate : s.join.state ≠ .unconfigured) :
    (s.whenRunning fun s => s.takeRequest k decision) = .next (decision bytes (taken s)) := by
  obtain ⟨hr, hbuffer, hroom⟩ := hstands
  rw [State.whenRunning_of_released s _ hr, State.takeRequest_standing decision hbuffer hroom, if_neg (hstate ·.1)]
  rfl

end Sys2Proof.Machine

namespace Sys2Proof.SendScheduler
open Sys2Proof.Machine Sys2Proof.Safety

/-- Settles O47: each request is decided by the station's state; a DETACH leaves the scheduler with the LEAVE. -/
theorem joinAndDetachTakenInTheirState : Obligations.JoinAndDetachTakenInTheirState := by
  refine fun s tag => ⟨fun hstands hout => ?_, fun hstands hout hconf => ?_, fun hstands hmember hconf => ?_,
    fun hstands hmember => ?_⟩
  · have hconf : s.join.state ≠ .unconfigured := by simp [hout]
    refine (takeRequest_decides State.decideJoin hstands hconf).trans (congrArg _ ((if_pos hout).trans ?_))
    exact State.enterJoining_of_out (s := (taken s).withOps (s.ops.add ⟨tag, .join⟩)) hout
  · exact (takeRequest_decides State.decideJoin hstands hconf).trans (congrArg _ (if_neg hout))
  · exact (takeRequest_decides State.decideDetach hstands hconf).trans (congrArg _ (if_neg hmember))
  · have hconf : s.join.state ≠ .unconfigured := by simp [hmember]
    have hflushed : (fun op => s.sched.flushes op = true) = fun op =>
        ∃ id, outboundWith op id = true ∧ s.sched.holds id = true ∧ s.sched.onLine ≠ .item id := by
      funext op
      simp only [Sched.flushes_iff, outboundWith_iff]
    refine ⟨_, _, _, hflushed ▸ flushed_completed s.sched s.ops.live, ?_, fun id => Sched.leaving_retry_none s.sched,
      Sched.leaving_retry_stands s.sched⟩
    refine (takeRequest_decides State.decideDetach hstands hconf).trans (congrArg _ ((if_pos hmember).trans ?_))
    exact State.startLeaving_eq (s := taken s) tag hmember

end Sys2Proof.SendScheduler
end


section
/-! PROOFS. The operation table and the hold table (07 R111, R114): what every command leaves of the load of the
operation table, of the hold records and of the queue of waiting commands. -/
namespace Sys2Proof.Machine
open Sys2Proof.Safety

/-! ### What is counted -/

/-- The commands that wait, live operations and replies together, and the hold records. -/
structure Ledger where
  pending : List Instr
  load : Nat
  holds : List HoldRecord

def State.ledger (s : State) : Ledger := ⟨s.pending, s.operationLoad, s.ops.holds⟩

/-- One hold record for a pair, and every depth from 1 to 8 (07 R114). -/
def HoldTableSound (hs : List HoldRecord) : Prop :=
  (hs.map fun h => (h.lock, h.owner)).Nodup ∧ ∀ h ∈ hs, 1 ≤ h.depth ∧ h.depth ≤ 8

/-- The queue of commands stands, the load rises by n at most, and a sound hold table stays sound. -/
structure LedgerStep (n : Nat) (a b : Ledger) : Prop where
  pending : b.pending = a.pending
  load : b.load ≤ a.load + n
  holds : HoldTableSound a.holds → HoldTableSound b.holds

namespace LedgerStep
variable {n : Nat} {a b c : Ledger}

@[simp] theorem refl (n : Nat) (a : Ledger) : LedgerStep n a a := ⟨rfl, Nat.le_add_right _ _, id⟩

theorem of_eq (h : b = a) : LedgerStep n a b := h ▸ refl n a

theorem trans_eq (hab : b = a) (h : LedgerStep n b c) : LedgerStep n a c := hab ▸ h

/-- Hold records change, and nothing else. -/
theorem of_holds {hs : List HoldRecord} (h : HoldTableSound a.holds → HoldTableSound hs) :
    LedgerStep n a { a with holds := hs } := ⟨rfl, Nat.le_add_right _ _, h⟩

end LedgerStep

/-! ### The hold table's operations (07 R114) -/

namespace HoldTableSound
variable {hs : List HoldRecord}

theorem nil : HoldTableSound [] := ⟨List.nodup_nil, nofun⟩

theorem filter (p : HoldRecord → Bool) (h : HoldTableSound hs) : HoldTableSound (hs.filter p) :=
  ⟨h.1.sublist (List.filter_sublist.map _), fun x hx => h.2 x (List.mem_of_mem_filter hx)⟩

/-- A HELD record of depth 1 takes the place of every other record of its pair. -/
theorem withHold (o : Owner) (l : Byte) (m : Mode) (h : HoldTableSound hs) :
    HoldTableSound (withHold hs l o m) := by
  obtain ⟨hnodup, hdepth⟩ := h.filter fun h => !(h.owner = o && h.lock = l)
  refine ⟨?_, ?_⟩
  · rw [Safety.withHold, List.map_append]
    refine hnodup.append (List.nodup_singleton _) ?_
    simp only [List.map_cons, List.map_nil, List.disjoint_singleton, List.mem_map, not_exists]
    rintro x ⟨hx, hpair⟩
    simp_all
  · rw [Safety.withHold]
    intro x hx
    rcases List.mem_append.1 hx with hx | hx
    · exact hdepth x hx
    · simp_all

/-- Records change, each for the same pair and to a depth from 1 to 8. -/
theorem map {f : HoldRecord → HoldRecord} (h : HoldTableSound hs)
    (hpair : ∀ x ∈ hs, (f x).lock = x.lock ∧ (f x).owner = x.owner)
    (hdepth : ∀ x ∈ hs, 1 ≤ (f x).depth ∧ (f x).depth ≤ 8) : HoldTableSound (hs.map f) := by
  obtain ⟨hnodup, -⟩ := h
  refine ⟨?_, by simpa using hdepth⟩
  rw [List.map_map, List.map_congr_left (g := fun h => (h.lock, h.owner)) fun x hx => by
    simp [(hpair x hx).1, (hpair x hx).2]]
  exact hnodup

/-- The HELD record of a pair changes, to another for the pair and to a depth from 1 to 8. -/
theorem updateHeld {u : OpsUnit} {o : Owner} {l : Byte} {r : HoldRecord} {f : HoldRecord → HoldRecord}
    (h : HoldTableSound u.holds) (hheld : u.held o l = some r) (hpair : (f r).lock = r.lock ∧ (f r).owner = r.owner)
    (hdepth : 1 ≤ (f r).depth ∧ (f r).depth ≤ 8) : HoldTableSound (u.updateHeld o l f).holds := by
  have hr := List.mem_of_find?_eq_some hheld
  have hfor := List.find?_some hheld
  have hsame : ∀ x ∈ u.holds, (x.isFor o l && !x.releasing) = true → x = r := by
    intro x hx hxfor
    refine List.inj_on_of_nodup_map h.1 hx hr ?_
    simp only [HoldRecord.isFor, Bool.and_eq_true, decide_eq_true_eq] at hxfor hfor
    simp [hxfor, hfor]
  refine h.map (fun x hx => ?_) (fun x hx => ?_) <;> split
  · next hxfor => rwa [hsame x hx hxfor]
  · exact ⟨rfl, rfl⟩
  · next hxfor => rwa [hsame x hx hxfor]
  · exact h.2 x hx

end HoldTableSound

/-! ### Several completions in one event (07 R132, R133) -/

/-- Each live operation completes or stays. -/
theorem length_of_completed {fits : Operation → Prop} {live done stay : List Operation}
    (h : Completed fits live done stay) : done.length + stay.length = live.length := by
  induction h with
  | nil => rfl
  | stays | alone | withCancel =>
    simp only [List.length_cons, List.length_append] at *
    omega

theorem length_completions (fits : Operation → Bool) (live : List Operation) :
    (completions fits live.length live).1.length + (completions fits live.length live).2.length = live.length :=
  length_of_completed (completions_completed fits live.length live le_rfl)

/-- Where every operation fits, none stays. -/
theorem stay_nil_of_completed {live done stay : List Operation} (h : Completed (fun _ => True) live done stay) :
    stay = [] := by
  induction h with
  | nil => rfl
  | stays _ _ _ _ hfits => exact absurd trivial hfits
  | alone _ _ _ _ _ _ _ ih => exact ih
  | withCancel _ _ _ _ _ _ _ _ _ _ _ ih => exact ih

/-- At a drop every live operation completes. -/
theorem completions_all (live : List Operation) :
    Completed (fun _ => True) live (completions (fun _ => true) live.length live).1 [] := by
  have h := completions_completed (fun _ => true) live.length live le_rfl
  simp only at h
  exact stay_nil_of_completed h ▸ h

namespace State
variable (s : State)

/-! ### The named updates of State -/

@[simp] theorem ledger_withPli (x : Pli) : (s.withPli x).ledger = s.ledger := rfl
@[simp] theorem ledger_withIntake (x : Intake) : (s.withIntake x).ledger = s.ledger := rfl
@[simp] theorem ledger_withReplica (x : Replica) : (s.withReplica x).ledger = s.ledger := rfl
@[simp] theorem ledger_withSched (x : Sched) : (s.withSched x).ledger = s.ledger := rfl
@[simp] theorem ledger_withMonitor (x : Monitor) : (s.withMonitor x).ledger = s.ledger := rfl
@[simp] theorem ledger_withJoin (x : JoinControl) : (s.withJoin x).ledger = s.ledger := rfl
@[simp] theorem ledger_withHand (x : HandOvers) : (s.withHand x).ledger = s.ledger := rfl

@[simp] theorem ledger_ite (c : Prop) [Decidable c] (a b : State) :
    (if c then a else b).ledger = if c then a.ledger else b.ledger := apply_ite ledger c a b

/-- The operations change in place. -/
theorem ledger_withOps_of_length {x : OpsUnit} (hlive : x.live.length = s.ops.live.length)
    (hholds : x.holds = s.ops.holds) : (s.withOps x).ledger = s.ledger := by
  simp [ledger, operationLoad, hlive, hholds]

/-! ### Shared operations -/

@[simp] theorem ledger_attend (a : BitVec 4) : (s.attend a).ledger = s.ledger := rfl

@[simp] theorem ledger_enter (st : StationState) : (s.enter st).ledger = s.ledger := by
  unfold enter
  split <;> rfl

@[simp] theorem ledger_setLone (b : Bool) : (s.setLone b).ledger = s.ledger := by
  unfold setLone
  split <;> rfl

@[simp] theorem ledger_queueControl (i : ControlItem) : (s.queueControl i).ledger = s.ledger := rfl
@[simp] theorem ledger_queueLock (i : LockItem) : (s.queueLock i).ledger = s.ledger := rfl
@[simp] theorem ledger_askRemoval (id : ItemId) : (s.askRemoval id).ledger = s.ledger := rfl

@[simp] theorem ledger_settleAlive : s.settleAlive.ledger = s.ledger := by
  unfold settleAlive
  split <;> rfl

/-- A reply is one more of the load. -/
theorem ledger_reply (r : Reply) : (s.reply r).ledger = { s.ledger with load := s.operationLoad + 1 } := by
  simp [ledger, operationLoad, reply]
  omega

/-! ### Host Port -/

@[simp] theorem ledger_setBuffer (b : RequestBuffer) : (s.setBuffer b).ledger = s.ledger := rfl
@[simp] theorem ledger_undefinedRead : s.undefinedRead.ledger = s.ledger := rfl

@[simp] theorem ledger_kindByte (b : Byte) : (s.kindByte b).ledger = s.ledger := by
  unfold kindByte
  split <;> rfl

@[simp] theorem ledger_argumentByte (b : Byte) : (s.argumentByte b).ledger = s.ledger := by
  unfold argumentByte
  split <;> rfl

/-- A reply leaves with its last byte (11 R192). -/
theorem ledgerStep_replyByte : LedgerStep 0 s.ledger s.replyByte.ledger := by
  unfold replyByte
  split
  · next r rest hreplies =>
    unfold HostPort.readByte
    split
    · exact .refl 0 s.ledger
    · refine ⟨rfl, ?_, id⟩
      simp [ledger, operationLoad, hreplies]
  · exact .refl 0 s.ledger

/-! ### Operations Unit -/

/-- The reply takes the place of the live operation (07 R112). -/
@[simp] theorem ledger_complete (fits : Operation → Bool) (code : ResultCode) :
    (s.complete fits code).ledger = s.ledger := by
  unfold complete
  split
  · rfl
  · next op hop =>
    have hmem := List.mem_of_find?_eq_some hop
    have hpos := List.length_pos_of_mem hmem
    have hlen := List.length_eraseP_of_mem hmem (List.find?_some hop)
    rw [ledger_reply]
    simp only [ledger, operationLoad, withOps_ops, withOps_port, withOps_pending, hlen]
    congr 1
    omega

@[simp] theorem ledger_completeAcquire (o : Owner) (l : Byte) (code cancelCode : ResultCode) :
    (s.completeAcquire o l code cancelCode).ledger = s.ledger := by
  unfold completeAcquire
  split
  · rfl
  · simp

@[simp] theorem ledger_setPhase (o : Owner) (l : Byte) (p : AcquirePhase) : (s.setPhase o l p).ledger = s.ledger :=
  s.ledger_withOps_of_length (by simp [OpsUnit.updateAcquire]) rfl

@[simp] theorem ledger_movePhase (o : Owner) (l : Byte) (a b : AcquirePhase) :
    (s.movePhase o l a b).ledger = s.ledger :=
  s.ledger_withOps_of_length (by simp [OpsUnit.updateAcquire]) rfl

@[simp] theorem ledger_withOps_moveRelease (o : Owner) (l : Byte) (a b : ReleasePhase) :
    (s.withOps (s.ops.moveRelease o l a b)).ledger = s.ledger :=
  s.ledger_withOps_of_length (by simp [OpsUnit.moveRelease]) rfl

/-- An operation that becomes live is one more of the load. -/
theorem ledger_withOps_add (op : Operation) :
    (s.withOps (s.ops.add op)).ledger = { s.ledger with load := s.operationLoad + 1 } := by
  simp [ledger, operationLoad, OpsUnit.add]
  omega

@[simp] theorem ledgerStep_addHold (n : Nat) (o : Owner) (l : Byte) (m : Mode) :
    LedgerStep n s.ledger (s.addHold o l m).ledger := .of_holds (.withHold o l m)

@[simp] theorem ledger_popNotice : s.popNotice.ledger = s.ledger := rfl

/-- What follows the taking of an outcome or a grant, its step seen from before it was taken. -/
theorem ledgerStep_of_popOps {n : Nat} {a : Ledger} (h : LedgerStep n s.popOps.ledger a) : LedgerStep n s.ledger a := h

@[simp] theorem ledger_noticeOnLine (n : Notice) : (s.noticeOnLine n).ledger = s.ledger := by
  unfold noticeOnLine
  split <;> simp

@[simp] theorem ledger_noticeAccepted (n : Notice) : (s.noticeAccepted n).ledger = s.ledger := by
  unfold noticeAccepted
  split <;> simp

@[simp] theorem ledger_cancelOutbound (o : Owner) (l : Byte) : (s.cancelOutbound o l).ledger = s.ledger := by
  simp only [cancelOutbound]
  split <;> simp

@[simp] theorem ledger_noticeVetoed (n : Notice) (removed : Bool) : (s.noticeVetoed n removed).ledger = s.ledger := by
  unfold noticeVetoed claimVetoed
  split
  · split
    · simp
    · split <;> simp
  · simp
  · rfl

@[simp] theorem ledger_beginWithdraw (o : Owner) (l : Byte) (c : WithdrawCause) :
    (s.beginWithdraw o l c).ledger = s.ledger := by simp [beginWithdraw]

@[simp] theorem ledgerStep_claimOutcome (o : Owner) (l : Byte) (out : ClaimOutcome) :
    LedgerStep 0 s.ledger (s.claimOutcome o l out).ledger := by
  unfold claimOutcome
  split
  · simp
  · split
    · simp
    · split
      · simp
      · rw [ledger_completeAcquire]
        split <;> simp

/-- The RELEASING record goes with the RELEASE (07 R121). -/
@[simp] theorem ledgerStep_freeOutcome (o : Owner) (l : Byte) (out : FreeOutcome) :
    LedgerStep 0 s.ledger (s.freeOutcome o l out).ledger := by
  unfold freeOutcome
  rw [ledger_complete]
  exact .of_holds (.filter _)

@[simp] theorem ledgerStep_withdrawOutcome (o : Owner) (l : Byte) (out : WithdrawOutcome) :
    LedgerStep 0 s.ledger (s.withdrawOutcome o l out).ledger := by
  unfold withdrawOutcome
  split
  · simp
  · split
    · split
      · simp
      · split <;> simp
    · simp

@[simp] theorem ledgerStep_grantNotice (o : Owner) (l : Byte) (m : Mode) :
    LedgerStep 0 s.ledger (s.grantNotice o l m).ledger := by
  unfold grantNotice
  split
  · simp
  · split <;> simp

/-! ### Presence Monitor -/

@[simp] theorem ledger_loadOwnSilence : s.loadOwnSilence.ledger = s.ledger := rfl

@[simp] theorem ledger_testEviction (v : Station) : (s.testEviction v).ledger = s.ledger := by
  unfold testEviction
  split <;> rfl

@[simp] theorem ledger_clearLone (h : MonitorHandOver) : (s.clearLone h).ledger = s.ledger := by simp [clearLone]

/-- What each round of a loop leaves alone, the loop leaves alone. -/
theorem ledger_foldl {α : Type} {f : State → α → State} (h : ∀ s a, (f s a).ledger = s.ledger) (l : List α) :
    (l.foldl f s).ledger = s.ledger := by
  induction l generalizing s with
  | nil => rfl
  | cons a l ih => exact (ih (f s a)).trans (h s a)

@[simp] theorem ledger_removeEvicts (h : MonitorHandOver) : (s.removeEvicts h).ledger = s.ledger :=
  s.ledger_foldl (fun s v => by simp) _

@[simp] theorem ledger_retest : s.retest.ledger = s.ledger := s.ledger_foldl (fun s v => by simp) _

@[simp] theorem ledger_presenceHandOver (h : MonitorHandOver) : (s.presenceHandOver h).ledger = s.ledger := by
  simp [presenceHandOver]

/-! ### Join Controller -/

@[simp] theorem ledger_popJoin : s.popJoin.ledger = s.ledger := rfl
@[simp] theorem ledger_queueMembership (k : MembershipKind) : (s.queueMembership k).ledger = s.ledger := rfl
@[simp] theorem ledger_setJoinWait (t : Timer) : (s.setJoinWait t).ledger = s.ledger := rfl
@[simp] theorem ledger_loadJoinWait : s.loadJoinWait.ledger = s.ledger := rfl
@[simp] theorem ledger_setDropCause (r : DropReason) : (s.setDropCause r).ledger = s.ledger := rfl
@[simp] theorem ledger_completeJoin : s.completeJoin.ledger = s.ledger := s.ledger_complete _ _

@[simp] theorem ledger_evaluateDuty (donor head : Option Station) : (s.evaluateDuty donor head).ledger = s.ledger := by
  simp only [evaluateDuty]
  split
  · simp
  · split <;> simp

@[simp] theorem ledger_becomeMember : s.becomeMember.ledger = s.ledger := by simp [becomeMember]
@[simp] theorem ledger_sendJoin : s.sendJoin.ledger = s.ledger := by simp [sendJoin]
@[simp] theorem ledger_enterJoining : s.enterJoining.ledger = s.ledger := by simp [enterJoining]

@[simp] theorem ledger_turnToJoining : s.turnToJoining.ledger = s.ledger := by
  unfold turnToJoining
  split <;> simp

@[simp] theorem ledger_followRecord : s.followRecord.ledger = s.ledger := by
  unfold followRecord
  split <;> simp

@[simp] theorem ledger_earlySnapshot : s.earlySnapshot.ledger = s.ledger := by
  simp only [earlySnapshot]
  split <;> simp

@[simp] theorem ledger_discardReplica : s.discardReplica.ledger = s.ledger := by simp [discardReplica]
@[simp] theorem ledger_leaveMemberless : s.leaveMemberless.ledger = s.ledger := by simp [leaveMemberless]

/-! ### The flush and the drop (07 R132, R133) -/

@[simp] theorem ledger_flushOutbound : s.flushOutbound.ledger = s.ledger := by
  have h := length_completions s.sched.flushes s.ops.live
  simp only [ledger, operationLoad, flushOutbound, withPort_pending, withPort_ops, withPort_port, withSched_pending,
    withSched_ops, withSched_port, withOps_pending, withOps_ops, withOps_port, List.length_append, List.length_map]
  congr 1
  omega

/-- The replies take the place of the live operations, and no hold record stays (07 R132). -/
theorem ledger_drop (r : DropReason) : (s.drop r).ledger = { s.ledger with holds := [] } := by
  have h : (dropReplies r s.ops.live).length = s.ops.live.length := by
    simpa [dropReplies] using length_of_completed (completions_all s.ops.live)
  simp only [drop, dropJoin, dropMonitor, ledger_withHand, ledger_withSched, ledger_setLone, ledger_withMonitor,
    ledger_discardReplica, ledger_withIntake, ledger_withPli, ledger_withJoin, ledger_enter]
  simp [ledger, operationLoad, dropOps, h]
  omega

/-! ### The line -/

@[simp] theorem ledger_noticeFor (id : ItemId) (e : NoticeEvent) : (s.noticeFor id e).ledger = s.ledger := by
  cases id <;> rfl

@[simp] theorem ledger_endNotice (e : NoticeEvent) : (s.endNotice e).ledger = s.ledger := by
  unfold endNotice
  split <;> simp

@[simp] theorem ledger_winBid : s.winBid.ledger = s.ledger := by
  unfold winBid
  split <;> simp

@[simp] theorem ledger_tellJoin (e : ItemEnd) : (s.tellJoin e).ledger = s.ledger := rfl

@[simp] theorem ledger_seeFabric : s.seeFabric.ledger = s.ledger := by
  unfold seeFabric
  split <;> simp

@[simp] theorem ledger_acceptFrame : s.acceptFrame.ledger = s.ledger := by
  simp [acceptFrame, ownAccepted, releaseLine]

@[simp] theorem ledger_countOwnVeto : s.countOwnVeto.ledger = s.ledger := by simp [countOwnVeto, withdrawFor]
@[simp] theorem ledger_countGivenVeto : s.countGivenVeto.ledger = s.ledger := by simp [countGivenVeto, withdrawFor]

@[simp] theorem ledger_vetoFrame (e : Bool) : (s.vetoFrame e).ledger = s.ledger := by
  simp [vetoFrame, ownVetoed, releaseLine]

/-! ### Ticks and applications -/

@[simp] theorem ledger_edge (x : TickSource) : (s.edge x).ledger = s.ledger := by cases x <;> rfl

@[simp] theorem ledger_tick (quiet : Bool) : (s.tick quiet).ledger = s.ledger := by
  rw [tick, ledger_withJoin, ledger_withMonitor]
  exact ledger_withOps_of_length _ (by simp) rfl

@[simp] theorem ledger_handOn (f : Frame) (a : Applied) : (s.handOn f a).ledger = s.ledger := by
  simp only [handOn]
  split <;> cases a.epoch <;> rfl

@[simp] theorem ledger_applyHead (k : FrameKind) (effect : Frame → State → Option Applied) :
    (s.applyHead k effect).ledger = s.ledger := by
  unfold applyHead
  split
  · split
    · split <;> simp [popFrame]
    · rfl
  · rfl

/-! ### Requests -/

@[simp] theorem ledgerStep_answer (k : RequestKind) (bytes : List Byte) (code : ResultCode) (data : List Byte) :
    LedgerStep 1 s.ledger (s.answer k bytes code data).ledger := by
  rw [answer, ledger_reply]
  exact ⟨rfl, le_rfl, id⟩

/-- An operation becomes live. -/
@[simp] theorem ledgerStep_withOps_add (op : Operation) :
    LedgerStep 1 s.ledger (s.withOps (s.ops.add op)).ledger := by
  rw [ledger_withOps_add]
  exact ⟨rfl, le_rfl, id⟩

variable (bytes : List Byte)

@[simp] theorem ledger_configure : (s.configure bytes).ledger = s.ledger := by
  simp only [configure, ledger_withPli, ledger_enter]
  rfl

@[simp] theorem ledgerStep_decideSetup : LedgerStep 1 s.ledger (decideSetup bytes s).ledger := by
  unfold decideSetup
  split
  · simp
  · split
    · simpa using (s.configure bytes).ledgerStep_answer .setup bytes .done []
    · simp

@[simp] theorem ledgerStep_decideJoin : LedgerStep 1 s.ledger (decideJoin bytes s).ledger := by
  unfold decideJoin
  split <;> simp

/-- The flush completes operations, and the DETACH becomes live. -/
@[simp] theorem ledgerStep_decideDetach : LedgerStep 1 s.ledger (decideDetach bytes s).ledger := by
  unfold decideDetach
  split
  · simp only [startLeaving]
    refine .trans_eq ?_ (ledgerStep_withOps_add _ _)
    simp
  · simp

theorem ledgerStep_reenter {h : HoldRecord} {a : Acquire} (hheld : s.ops.held a.owner a.lock = some h) :
    LedgerStep 1 s.ledger (s.reenter bytes h a).ledger := by
  unfold reenter
  split
  · simp
  · split
    · simp
    · next hdepth =>
      rw [answer, ledger_reply]
      refine ⟨rfl, le_rfl, fun hsound => hsound.updateHeld hheld ⟨rfl, rfl⟩ ?_⟩
      simp only [Config.depthLimit] at hdepth ⊢
      omega

@[simp] theorem ledgerStep_newClaim (a : Acquire) : LedgerStep 1 s.ledger (s.newClaim bytes a).ledger := by
  unfold newClaim sendClaim
  split
  · simp
  · split
    · simp
    · split <;> simp

@[simp] theorem ledgerStep_decideAcquire : LedgerStep 1 s.ledger (decideAcquire bytes s).ledger := by
  simp only [decideAcquire]
  split
  · simp
  · split
    · simp
    · split
      · simp
      · split
        · next hheld => exact s.ledgerStep_reenter bytes hheld
        · simp

/-- At depth 1 the record becomes RELEASING and the RELEASE lives; above, the depth falls. -/
theorem ledgerStep_releaseHeld {h : HoldRecord} (hheld : s.ops.held (argOwner bytes) (argLock bytes) = some h) :
    LedgerStep 1 s.ledger (s.releaseHeld bytes h).ledger := by
  have hdepth : HoldTableSound s.ops.holds → 1 ≤ h.depth ∧ h.depth ≤ 8 :=
    fun hsound => hsound.2 h (List.mem_of_find?_eq_some hheld)
  simp only [releaseHeld]
  split
  · next hdeep =>
    rw [answer, ledger_reply]
    refine ⟨rfl, le_rfl, fun hsound => hsound.updateHeld hheld ⟨rfl, rfl⟩ ?_⟩
    have := hdepth hsound
    simp only
    omega
  · rw [ledger_queueLock, ledger_withOps_add]
    exact ⟨rfl, le_rfl, fun hsound => hsound.updateHeld hheld ⟨rfl, rfl⟩ (hdepth hsound)⟩

@[simp] theorem ledgerStep_decideRelease : LedgerStep 1 s.ledger (decideRelease bytes s).ledger := by
  unfold decideRelease
  split
  · simp
  · split
    · simp
    · next hheld => exact s.ledgerStep_releaseHeld bytes hheld

/-- A CANCEL that becomes live is one more of the load. -/
@[simp] theorem ledgerStep_attach (tag : Byte) (o : Owner) (l : Byte) :
    LedgerStep 1 s.ledger (s.attach tag o l).ledger := by
  have hattached : (s.withOps (s.ops.updateAcquire o l fun a => { a with attached := true })).ledger = s.ledger :=
    s.ledger_withOps_of_length (by simp [OpsUnit.updateAcquire]) rfl
  exact .trans_eq hattached (ledgerStep_withOps_add _ _)

@[simp] theorem ledgerStep_decideCancel : LedgerStep 1 s.ledger (decideCancel bytes s).ledger := by
  unfold decideCancel
  split
  · simp
  · split
    · simp
    · split
      · simp
      · rw [ledger_settleAlive]
        unfold cancelTarget
        split <;> simp

@[simp] theorem ledgerStep_decideQueryLock : LedgerStep 1 s.ledger (decideQueryLock bytes s).ledger := by
  unfold decideQueryLock
  split <;> simp

@[simp] theorem ledgerStep_decideAck : LedgerStep 1 s.ledger (decideAck bytes s).ledger := by
  unfold decideAck
  split
  · exact ledgerStep_answer _ _ _ _ _
  · simp

end State

end Sys2Proof.Machine
end


section
/-! PROOFS. What one command can do to the operation table and the hold table (07 R111, R114), and that each leaves the
queue of waiting commands alone: said once for every command. -/
namespace Sys2Proof.Machine
open Sys2Proof.Safety

/-- What a command can do: the load does not rise, or it rises by one from below 32 (07 R111). -/
inductive CommandStep (a b : Ledger) : Prop where
  | keeps : LedgerStep 0 a b → CommandStep a b
  | takes : a.load < 32 → LedgerStep 1 a b → CommandStep a b

namespace CommandStep
variable {a b : Ledger}

theorem pending (h : CommandStep a b) : b.pending = a.pending := by
  cases h with
  | keeps h => exact h.pending
  | takes _ h => exact h.pending

theorem load_le (h : CommandStep a b) (ha : a.load ≤ 32) : b.load ≤ 32 := by
  cases h with
  | keeps h => exact h.load.trans ha
  | takes hroom h => exact h.load.trans hroom

theorem holds (h : CommandStep a b) : HoldTableSound a.holds → HoldTableSound b.holds := by
  cases h with
  | keeps h => exact h.holds
  | takes _ h => exact h.holds

end CommandStep

/-- The command answers a next state, and the step to it is one that a command can do. -/
def Completes (s : State) (o : Host.Outcome State Fault Refusal) : Prop :=
  ∃ t, o = .next t ∧ CommandStep s.ledger t.ledger

namespace Completes
variable {s : State}

/-- A command that takes place only while the part runs. -/
theorem whenRunning {f : State → State} (h : CommandStep s.ledger (f s).ledger) : Completes s (s.whenRunning f) := by
  cases hr : s.resetHeld
  · exact ⟨f s, State.whenRunning_of_released s f hr, h⟩
  · exact ⟨s, State.whenRunning_of_held s f hr, .keeps (.refl _ _)⟩

theorem of_step {f : State → State} (h : LedgerStep 0 s.ledger (f s).ledger) : Completes s (s.whenRunning f) :=
  .whenRunning (.keeps h)

/-- A command that leaves operations, replies and hold records alone. -/
theorem of_ledger {f : State → State} (h : (f s).ledger = s.ledger) : Completes s (s.whenRunning f) :=
  .of_step (.of_eq h)

/-- A request is taken from a load below 32 (07 R111), and its decision adds a reply or a live operation. -/
theorem request {k : RequestKind} {decision : List Byte → State → State}
    (h : ∀ bytes s, LedgerStep 1 (State.ledger s) (decision bytes s).ledger) :
    Completes s (s.whenRunning fun s => s.takeRequest k decision) := by
  refine .whenRunning ?_
  unfold State.takeRequest
  split
  · exact .keeps (.refl _ _)
  · next bytes htakable =>
    have hroom : s.ledger.load < 32 := by
      unfold State.takable at htakable
      split at htakable
      · exact (Option.ite_none_right_eq_some.1 htakable).1.2
      · cases htakable
    refine .takes hroom ?_
    have hanswer := (s.setBuffer .empty).ledgerStep_answer k bytes .notConfigured []
    have hdecision := h bytes (s.setBuffer .empty)
    rw [State.ledger_setBuffer] at hanswer hdecision
    split
    · exact hanswer
    · exact hdecision

theorem resetRelease (p : Straps) : Completes s (execResetRelease p s) := by
  refine ⟨_, rfl, .keeps ?_⟩
  split
  · exact ⟨rfl, Nat.zero_le _, fun _ => .nil⟩
  · exact .refl _ _

theorem drop : Completes s (execDrop s) := by
  refine .of_step ?_
  split
  · split
    · rw [State.ledger_drop]
      exact .of_holds fun _ => .nil
    · exact .refl _ _
  · exact .refl _ _

theorem windowClose (slots : BitVec 16) (frameStart : Bool) : Completes s (execWindowClose slots frameStart s) := by
  refine .of_ledger ?_
  split
  · split <;> simp
  · rfl

theorem joinWaitExpiry : Completes s (execJoinWaitExpiry s) := by
  refine .of_ledger ?_
  split
  · split <;> simp
  · rfl

theorem lockFrameVetoed : Completes s (execLockFrameVetoed s) := by
  refine .of_ledger ?_
  split
  · split <;> simp
  · rfl

end Completes

/-- What every command does to the table and to the queue of commands: RESET, the line and the drop first, then the
applications, the requests, the outcomes, and the commands that leave all three alone. -/
theorem exec_completes (i : Instr) (s : State) : Completes s (exec i s) := by
  unfold exec
  cases i with
  | hardwareReset => exact ⟨_, rfl, .keeps (.refl _ _)⟩
  | resetRelease p => exact .resetRelease p
  | drop => exact .drop
  | windowClose slots frameStart => exact .windowClose slots frameStart
  | joinWaitExpiry => exact .joinWaitExpiry
  | lockFrameVetoed => exact .lockFrameVetoed
  | vetoSlotEnd markE markF inPlace => exact .of_ledger (by simp)
  | applyClaim | applyFree | applyWithdraw | applyJoin | applyFound | applyLeave | applyEvict | applyRefuse
  | applySnaphead | applySnapdata | applyAlive => exact .of_ledger (State.ledger_applyHead s _ _)
  | setup | join | detach | acquire | release | cancel | queryLock | ack => exact .request (by simp)
  | queryMembers | queryStation => exact .request fun _ s => s.ledgerStep_answer _ _ _ _
  | claimOutcome | freeOutcome | withdrawOutcome =>
    refine .of_step ?_
    split
    · split
      · exact .refl _ _
      · exact s.ledgerStep_of_popOps (by simp)
    · exact .refl _ _
  | grantNotice =>
    refine .of_step ?_
    split
    · exact s.ledgerStep_of_popOps (by simp)
    · exact .refl _ _
  | replyRead access =>
    refine .of_step ?_
    split
    · exact s.ledgerStep_replyByte
    · simp
  | tick | idleMeasureExpiry | waitTimerExpiry | ownSilenceExpiry | silenceCountdownExpiry | isolationExpiry
  | rejoinTimerExpiry | lineIdleGap | startMark | frameEnd | lockFrameOnLine | lockFrameAccepted | ownJoinApplied
  | ownFoundApplied | otherFoundApplied | ownSnapheadTaken | ownSnapdataTaken | membershipItemRemoved | refuseTaken
  | ownLeaveApplied | evictNamingSelf | donorDutyEvaluation | presenceHandOver | kindByteWrite | argumentByteWrite
  | ownSlotBegins | dominantPulse =>
    refine .of_ledger ?_
    split <;> simp

end Sys2Proof.Machine

namespace Sys2Proof.LocalOperations
open Sys2Proof.Machine Sys2Proof.Safety

/-- What one step makes of the operation table and the hold table, from the command in front. -/
theorem step_commandStep {s t : State} (ht : step s = .next t) :
    ∃ rest, CommandStep (s.withPending rest).ledger t.ledger := by
  unfold step at ht
  split at ht
  · cases ht
    exact ⟨s.pending, .keeps (.refl _ _)⟩
  · next c rest _ =>
    obtain ⟨u, hu, hstep⟩ := exec_completes c (s.withPending rest)
    cases hu.symm.trans ht
    exact ⟨rest, hstep⟩

/-- Settles O53: a reply takes the place of an operation that completes, and a request is taken only from a load below
32; a new hold record takes the place of those of its pair, and a depth moves by one within its bounds. -/
theorem operationsAndHoldsStaySound : Obligations.OperationsAndHoldsStaySound := by
  refine ⟨fun s t ht hs => ?_, fun s t ht hs => ?_⟩
  · obtain ⟨rest, hstep⟩ := step_commandStep ht
    have hload : s.operationLoad ≤ 32 := (Nat.add_comm _ _).trans_le hs
    exact (Nat.add_comm _ _).trans_le (hstep.load_le hload)
  · obtain ⟨rest, hstep⟩ := step_commandStep ht
    exact hstep.holds hs

/-- Settles O2: no meaning faults or refuses, and none touches the queue of commands. -/
theorem everyCommandCompletes : Obligations.EveryCommandCompletes := fun c s =>
  let ⟨t, ht, hstep⟩ := exec_completes c s
  ⟨t, ht, hstep.pending⟩

end Sys2Proof.LocalOperations
end


section
/-! PROOFS. The phases of the live operations (07 R113, R123, R127, R128): what the scheduler's notices and the wait
timer make of them, and an ACQUIRE on which a CANCEL waits. -/
namespace Sys2Proof.Machine
open Sys2Proof.Safety

/-! ### Phases (07 R113) -/

section
variable {s : State} {o : Owner} {l : Byte}

/-- The phase of the one ACQUIRE of a pair changes where it stands. -/
theorem State.setPhase_of_becomes {a : Acquire} {p : AcquirePhase} {live' : List Operation}
    (h : AcquireBecomes s.ops.live live' a { a with phase := p }) :
    s.setPhase a.owner a.lock p = { s with ops := { s.ops with live := live' } } := by
  obtain ⟨-, hupdate⟩ := OpsUnit.of_becomes (f := fun a => { a with phase := p }) h
  rw [State.setPhase, hupdate]
  rfl

theorem State.beginWithdraw_of_becomes {a : Acquire} {cause : WithdrawCause} {live' : List Operation}
    (h : AcquireBecomes s.ops.live live' a { a with phase := .withdrawing cause }) :
    s.beginWithdraw a.owner a.lock cause = { s with
      ops := { s.ops with live := live' }
      sched := { s.sched with locks := s.sched.locks ++ [.withdraw a.owner a.lock] } } := by
  rw [State.beginWithdraw, State.setPhase_of_becomes h]
  rfl

/-- A CLAIM's notices move the ACQUIRE of the pair, in the words of the statements. -/
theorem State.movePhase_eq (a b : AcquirePhase) (x y : ReleasePhase) :
    s.movePhase o l a b
      = { s with ops := { s.ops with live := s.ops.live.map (phaseMoved .claim o l a b x y) } } := by
  have hlive : (s.ops.updateAcquire o l fun q => if q.phase = a then { q with phase := b } else q).live
      = s.ops.live.map (phaseMoved .claim o l a b x y) := by
    refine List.map_congr_left fun op _ => ?_
    obtain ⟨tag, body⟩ := op
    cases body with
    | acquire q =>
      by_cases hpair : q.owner = o ∧ q.lock = l
      · by_cases hphase : q.phase = a <;> simp [Operation.acquireOf, phaseMoved, hpair, hphase]
      · have hother : ¬ (q.owner = o ∧ q.lock = l ∧ q.phase = a) := fun h => hpair ⟨h.1, h.2.1⟩
        simp [Operation.acquireOf, phaseMoved, hpair, hother]
    | _ => rfl
  exact congrArg (fun live => { s with ops := { s.ops with live := live } }) hlive

/-- A FREE's notices move the RELEASE of the pair. -/
theorem State.moveRelease_eq (a b : AcquirePhase) (x y : ReleasePhase) :
    s.withOps (s.ops.moveRelease o l x y)
      = { s with ops := { s.ops with live := s.ops.live.map (phaseMoved .free o l a b x y) } } := by
  have hlive : (s.ops.moveRelease o l x y).live = s.ops.live.map (phaseMoved .free o l a b x y) := by
    refine List.map_congr_left fun op _ => ?_
    obtain ⟨tag, body⟩ := op
    cases body with
    | release o' l' p =>
      by_cases hrelease : o' = o ∧ l' = l ∧ p = x
      · obtain ⟨rfl, rfl, rfl⟩ := hrelease
        simp [phaseMoved]
      · simp [phaseMoved, hrelease]
    | _ => rfl
  exact congrArg (fun live => { s with ops := { s.ops with live := live } }) hlive

/-- A WITHDRAW's notices move no operation. -/
theorem map_phaseMoved_withdraw (a b : AcquirePhase) (x y : ReleasePhase) (live : List Operation) :
    live.map (phaseMoved .withdraw o l a b x y) = live := by
  have hmoved : phaseMoved .withdraw o l a b x y = id := by
    funext ⟨tag, body⟩
    cases body <;> rfl
  rw [hmoved, List.map_id]

end

/-- What a notice that only moves a phase does to the operation of its frame, by the frame's kind. -/
def State.moved (s : State) (k : LockKind) (o : Owner) (l : Byte) (a b : AcquirePhase) (x y : ReleasePhase) : State :=
  match k with
  | .claim => s.movePhase o l a b
  | .free => s.withOps (s.ops.moveRelease o l x y)
  | .withdraw => s

theorem State.moved_eq (s : State) (k : LockKind) (o : Owner) (l : Byte) (a b : AcquirePhase) (x y : ReleasePhase) :
    s.moved k o l a b x y
      = { s with ops := { s.ops with live := s.ops.live.map (phaseMoved k o l a b x y) } } := by
  cases k with
  | claim => exact State.movePhase_eq a b x y
  | free => exact State.moveRelease_eq a b x y
  | withdraw =>
    rw [map_phaseMoved_withdraw]
    rfl

theorem State.noticeOnLine_eq (s : State) (n : Notice) :
    s.noticeOnLine n = { s with ops := { s.ops with
      live := s.ops.live.map (phaseMoved n.kind n.owner n.lock .outbound .onLine .outbound .onLine) } } :=
  s.moved_eq n.kind n.owner n.lock _ _ _ _

theorem State.noticeAccepted_eq (s : State) (n : Notice) :
    s.noticeAccepted n = { s with ops := { s.ops with
      live := s.ops.live.map (phaseMoved n.kind n.owner n.lock .onLine .applyWait .onLine .applyWait) } } :=
  s.moved_eq n.kind n.owner n.lock _ _ _ _

/-- A vetoed CLAIM whose item stays, and on whose ACQUIRE no CANCEL waits, goes back to OUTBOUND. -/
theorem State.claimVetoed_stays {s : State} {o : Owner} {l : Byte}
    (h : ∀ a, s.ops.acquire o l = some a → a.attached = false ∨ a.phase ≠ .onLine) :
    s.claimVetoed o l false = s.movePhase o l .onLine .outbound := by
  simp only [State.claimVetoed, Bool.false_eq_true, if_false]
  split
  · next a ha =>
    have hwaits : ¬ (a.attached = true ∧ a.phase = .onLine) := by
      rintro ⟨hattached, hphase⟩
      rcases h a ha with h | h
      · exact Bool.false_ne_true (h.symm.trans hattached)
      · exact h hphase
    rw [if_neg hwaits]
  · rfl

theorem State.noticeVetoed_eq {s : State} (n : Notice) {removed : Bool}
    (h : n.kind = .claim → removed = false ∧
      ∀ a, s.ops.acquire n.owner n.lock = some a → a.attached = false ∨ a.phase ≠ .onLine) :
    s.noticeVetoed n removed = { s with ops := { s.ops with
      live := s.ops.live.map (phaseMoved n.kind n.owner n.lock .onLine .outbound .onLine .outbound) } } := by
  obtain ⟨k, o, l, e⟩ := n
  cases k with
  | claim =>
    obtain ⟨rfl, hwaits⟩ := h rfl
    exact (State.claimVetoed_stays hwaits).trans (State.movePhase_eq _ _ _ _)
  | free => exact s.moved_eq .free o l _ _ _ _
  | withdraw => exact s.moved_eq .withdraw o l _ _ _ _

/-! ### An ACQUIRE with its CANCEL (07 R126 to R128) -/

/-- Where the ACQUIRE of a pair is the only one, a change of it that keeps the pair and the CANCEL is a change of its
entry alone. -/
theorem OpsUnit.updateAcquire_lives {u : OpsUnit} {a : Acquire} {tag : Byte} {cancel : Option Byte}
    {others : List Operation} {f : Acquire → Acquire} (h : AcquireLives u.live tag a cancel others)
    (hothers : ∀ op ∈ others, op.isAcquire a.owner a.lock = false) (howner : (f a).owner = a.owner)
    (hlock : (f a).lock = a.lock) (hattached : (f a).attached = a.attached) :
    AcquireLives (u.updateAcquire a.owner a.lock f).live tag (f a) cancel others := by
  obtain ⟨before, after, hlive, hbefore, hcancel⟩ := h
  have hafter : ∀ op ∈ before ++ after, op.isAcquire a.owner a.lock = false := by
    intro op hop
    cases cancel with
    | none =>
      obtain ⟨-, rfl⟩ := hcancel
      exact hothers op hop
    | some ct =>
      obtain ⟨-, p, q, rfl, -, rfl⟩ := hcancel
      by_cases hct : op = ⟨ct, .cancel a.owner a.lock⟩
      · simp [hct]
      · exact hothers op (by simpa [hct] using hop)
  rw [OpsUnit.updateAcquire_of_split f hlive hafter]
  refine ⟨before, after, rfl, ?_, ?_⟩
  · rwa [howner, hlock]
  · rwa [howner, hlock, hattached]

/-- The removal of the CLAIM from its list completes the ACQUIRE with CANCELLED, its CANCEL with DONE (07 R127). -/
theorem State.cancelOutbound_listed {s : State} {a : Acquire} {tag : Byte} {cancel : Option Byte}
    {others : List Operation} (h : AcquireLives s.ops.live tag a cancel others)
    (hline : s.sched.onLine ≠ .item (.lock .claim a.owner a.lock))
    (hlisted : s.sched.holds (.lock .claim a.owner a.lock) = true) :
    s.cancelOutbound a.owner a.lock = { s with
      ops := { s.ops with live := others }
      port := { s.port with replies := s.port.replies ++ pairReplies tag .cancelled cancel .done }
      sched := itemGone s.sched (.lock .claim a.owner a.lock) } := by
  simp only [State.cancelOutbound, Sched.remove_listed _ _ hline hlisted]
  rw [Sched.take_eq_itemGone]
  exact State.completeAcquire_of_lives (s := s.withSched (itemGone s.sched _)) .cancelled .done h

/-- A vetoed CLAIM on whose ACQUIRE a CANCEL waits: removed by the veto or now, both complete (07 R128). -/
theorem State.claimVetoed_cancelled {s : State} {a : Acquire} {tag ct : Byte} {others : List Operation} {removed : Bool}
    (h : AcquireLives s.ops.live tag a (some ct) others)
    (hothers : ∀ op ∈ others, op.isAcquire a.owner a.lock = false) (hphase : a.phase = .onLine)
    (hline : s.sched.onLine ≠ .item (.lock .claim a.owner a.lock))
    (hlisted : removed = false → s.sched.holds (.lock .claim a.owner a.lock) = true) :
    s.claimVetoed a.owner a.lock removed = { s with
      ops := { s.ops with live := others }
      port := { s.port with replies := s.port.replies ++ pairReplies tag .cancelled (some ct) .done }
      sched := if removed then s.sched else itemGone s.sched (.lock .claim a.owner a.lock) } := by
  cases removed with
  | true => exact State.completeAcquire_of_lives .cancelled .done h
  | false =>
    have hattached : a.attached = true := by
      obtain ⟨_, _, _, _, h, _⟩ := h
      exact h
    have hmoved := OpsUnit.updateAcquire_lives
      (f := fun q => if q.phase = .onLine then { q with phase := .outbound } else q) h hothers
      (by simp [hphase]) (by simp [hphase]) (by simp [hphase])
    simp only [hphase, if_true] at hmoved
    have hcancelled := State.cancelOutbound_listed (s := s.movePhase a.owner a.lock .onLine .outbound)
      (a := { a with phase := .outbound }) hmoved hline (hlisted rfl)
    simp only [State.claimVetoed, OpsUnit.acquire_of_lives h, hattached, hphase]
    exact hcancelled

/-! ### Notices are taken (log 2) -/

/-- The state with the oldest notice of the scheduler taken. -/
abbrev State.noticeTaken (s : State) (rest : List Notice) : State := { s with hand := { s.hand with notices := rest } }

theorem State.popNotice_eq {s : State} {n : Notice} {rest : List Notice} (h : s.hand.notices = n :: rest) :
    s.popNotice = s.noticeTaken rest := by
  simp only [State.popNotice, h]
  rfl

section
variable {s : State} {k : LockKind} {o : Owner} {l : Byte} {rest : List Notice} (hr : s.resetHeld = false)
include hr

theorem execLockFrameOnLine_taken (h : s.hand.notices = ⟨k, o, l, .onLine⟩ :: rest) :
    execLockFrameOnLine s = .next ((s.noticeTaken rest).noticeOnLine ⟨k, o, l, .onLine⟩) := by
  simp [execLockFrameOnLine, State.whenRunning_of_released s _ hr, State.popNotice_eq h, h]

theorem execLockFrameAccepted_taken (h : s.hand.notices = ⟨k, o, l, .accepted⟩ :: rest) :
    execLockFrameAccepted s = .next ((s.noticeTaken rest).noticeAccepted ⟨k, o, l, .accepted⟩) := by
  simp [execLockFrameAccepted, State.whenRunning_of_released s _ hr, State.popNotice_eq h, h]

theorem execLockFrameVetoed_taken {removed : Bool} (h : s.hand.notices = ⟨k, o, l, .vetoed removed⟩ :: rest) :
    execLockFrameVetoed s
      = .next ((s.noticeTaken rest).noticeVetoed ⟨k, o, l, .vetoed removed⟩ removed).settleAlive := by
  simp [execLockFrameVetoed, State.whenRunning_of_released s _ hr, State.popNotice_eq h, h]

end
end Sys2Proof.Machine

namespace Sys2Proof.LocalOperations
open Sys2Proof.Machine Sys2Proof.Safety

/-- Settles O7: the due timer's ACQUIRE is found, and its withdrawal begins. -/
theorem waitTimerExpiryQueuesWithdraw : Obligations.WaitTimerExpiryQueuesWithdraw := by
  intro s a live' hr hphase h
  obtain ⟨hfound, -⟩ := OpsUnit.of_becomes (f := fun a => { a with phase := .withdrawing .timer }) h
  have htaken : execWaitTimerExpiry a.owner a.lock s = .next (s.beginWithdraw a.owner a.lock .timer) := by
    simp [execWaitTimerExpiry, State.whenRunning_of_released s _ hr, hfound, hphase]
  exact htaken.trans (congrArg _ (State.beginWithdraw_of_becomes h))

/-- Settles O31: each notice maps the phase over the live operations; a veto with a CANCEL waiting completes both. -/
theorem noticesMoveThePhase : Obligations.NoticesMoveThePhase := by
  refine ⟨fun s k o l rest hr => ⟨fun hn => ?_, fun hn => ?_⟩, fun s k o l removed rest hr hn hmoves => ?_,
    fun s a tag ct others rest removed hr hn hlives hothers hphase hline hlisted => ?_⟩
  · exact (execLockFrameOnLine_taken hr hn).trans (congrArg _ (State.noticeOnLine_eq _ _))
  · exact (execLockFrameAccepted_taken hr hn).trans (congrArg _ (State.noticeAccepted_eq _ _))
  · refine ⟨_, execLockFrameVetoed_taken hr hn, ?_⟩
    rw [State.noticeVetoed_eq (s := s.noticeTaken rest) ⟨k, o, l, .vetoed removed⟩ hmoves]
    exact ⟨State.settleAlive_settled rfl, State.settleAlive_sched_only _⟩
  · refine ⟨_, execLockFrameVetoed_taken hr hn, ?_⟩
    have hvetoed := State.claimVetoed_cancelled (s := s.noticeTaken rest) hlives hothers hphase hline hlisted
    simp only [State.noticeVetoed]
    rw [hvetoed]
    refine ⟨State.settleAlive_sched_only _, ?_, ?_⟩ <;> rintro rfl <;> exact State.settleAlive_settled rfl

end Sys2Proof.LocalOperations
end


section
/-! PROOFS. Outcomes and grants (07 R118, R119, R121, R125, R129): each completes the operation that it finds, or moves
it on. -/
namespace Sys2Proof.Machine
open Sys2Proof.Safety

/-! ### Outcomes and grants are taken (log 2) -/

/-- The state with the oldest hand-over to the Operations Unit taken. -/
abbrev State.opsTaken (s : State) (rest : List OpsHandOver) : State := { s with hand := { s.hand with ops := rest } }

theorem State.popOps_eq {s : State} {x : OpsHandOver} {rest : List OpsHandOver} (h : s.hand.ops = x :: rest) :
    s.popOps = s.opsTaken rest := by
  simp only [State.popOps, h]
  rfl

theorem State.noticePending_eq_false {s : State} {k : LockKind} {o : Owner} {l : Byte}
    (h : ∀ n ∈ s.hand.notices, ¬ (n.kind = k ∧ n.owner = o ∧ n.lock = l)) : s.noticePending k o l = false := by
  simpa [State.noticePending, and_assoc] using h

section
variable {s : State} {o : Owner} {l : Byte} {rest : List OpsHandOver} (hr : s.resetHeld = false)
include hr

theorem execClaimOutcome_taken {x : ClaimOutcome} (h : s.hand.ops = .claim o l x :: rest)
    (hnotices : ∀ n ∈ s.hand.notices, ¬ (n.kind = .claim ∧ n.owner = o ∧ n.lock = l)) :
    execClaimOutcome s = .next ((s.opsTaken rest).claimOutcome o l x) := by
  simp [execClaimOutcome, State.whenRunning_of_released s _ hr, State.popOps_eq h, h,
    State.noticePending_eq_false hnotices]

theorem execFreeOutcome_taken {x : FreeOutcome} (h : s.hand.ops = .free o l x :: rest)
    (hnotices : ∀ n ∈ s.hand.notices, ¬ (n.kind = .free ∧ n.owner = o ∧ n.lock = l)) :
    execFreeOutcome s = .next ((s.opsTaken rest).freeOutcome o l x) := by
  simp [execFreeOutcome, State.whenRunning_of_released s _ hr, State.popOps_eq h, h,
    State.noticePending_eq_false hnotices]

theorem execWithdrawOutcome_taken {x : WithdrawOutcome} (h : s.hand.ops = .withdraw o l x :: rest)
    (hnotices : ∀ n ∈ s.hand.notices, ¬ (n.kind = .withdraw ∧ n.owner = o ∧ n.lock = l)) :
    execWithdrawOutcome s = .next ((s.opsTaken rest).withdrawOutcome o l x) := by
  simp [execWithdrawOutcome, State.whenRunning_of_released s _ hr, State.popOps_eq h, h,
    State.noticePending_eq_false hnotices]

theorem execGrantNotice_taken {m : Mode} (h : s.hand.ops = .grant o l m :: rest) :
    execGrantNotice s = .next ((s.opsTaken rest).grantNotice o l m).settleAlive := by
  simp [execGrantNotice, State.whenRunning_of_released s _ hr, State.popOps_eq h, h]

end

/-! ### Outcomes (07 R118, R121, R125, R129) -/

section
variable {s : State} {a : Acquire} {tag : Byte} {cancel : Option Byte} {others : List Operation}

/-- The outcome QUEUED parks the ACQUIRE with its wait limit (07 R118). -/
theorem State.claimOutcome_queued {live' : List Operation} (hphase : a.phase = .applyWait)
    (hattached : a.attached = false) (h : AcquireBecomes s.ops.live live' a
      { a with phase := .queued (if a.limit = 0 then .stopped else .running a.limit.toNat) }) :
    s.claimOutcome a.owner a.lock .queued = { s with ops := { s.ops with live := live' } } := by
  obtain ⟨hfound, -⟩ := OpsUnit.of_becomes (f := fun a =>
    { a with phase := .queued (if a.limit = 0 then .stopped else .running a.limit.toNat) }) h
  simp only [State.claimOutcome, hfound, hphase, hattached, ClaimOutcome.reply, ne_eq, not_true_eq_false, if_false,
    Bool.false_eq_true]
  exact State.setPhase_of_becomes h

/-- With a CANCEL attached, QUEUED starts the withdrawal (07 R129). -/
theorem State.claimOutcome_queued_attached {live' : List Operation} (hphase : a.phase = .applyWait)
    (hattached : a.attached = true) (h : AcquireBecomes s.ops.live live' a { a with phase := .withdrawing .cancel }) :
    s.claimOutcome a.owner a.lock .queued = s.beginWithdraw a.owner a.lock .cancel := by
  obtain ⟨hfound, -⟩ := OpsUnit.of_becomes (f := fun a => { a with phase := .withdrawing .cancel }) h
  simp only [State.claimOutcome, hfound, hphase, hattached, ClaimOutcome.reply, ne_eq, not_true_eq_false, if_false,
    if_true]

/-- Every other outcome is the ACQUIRE's reply, with TOO_LATE for its CANCEL; GRANTED makes a HELD record. -/
theorem State.claimOutcome_decided {x : ClaimOutcome} {code : ResultCode} (hx : x.reply = some code)
    (hphase : a.phase = .applyWait) (h : AcquireLives s.ops.live tag a cancel others) :
    s.claimOutcome a.owner a.lock x = { s with
      ops :=
        { live := others
          holds := if x = .granted then withHold s.ops.holds a.lock a.owner a.mode else s.ops.holds }
      port := { s.port with replies := s.port.replies ++ pairReplies tag code cancel .tooLate } } := by
  simp only [State.claimOutcome, OpsUnit.acquire_of_lives h, hphase, hx, ne_eq, not_true_eq_false, if_false]
  split
  · exact State.completeAcquire_of_lives (s := s.addHold a.owner a.lock a.mode) code .tooLate h
  · exact State.completeAcquire_of_lives code .tooLate h

/-- The replies of 07 Table 7-3. -/
theorem ClaimOutcome.reply_of_mem {x : ClaimOutcome} {code : ResultCode}
    (h : (x, code) ∈ [(.granted, ResultCode.granted), (.busy, .busy), (.queueFull, .queueFull),
      (.poolFull, .poolFull), (.quota, .quota), (.duplicate, .duplicate)]) : x.reply = some code := by
  cases x <;> simp_all [ClaimOutcome.reply]

/-- The reply of a RELEASE (07 R121). -/
def FreeOutcome.reply : FreeOutcome → ResultCode
  | .released => .released
  | .notHolder => .notHolder

/-- The replies of an ACQUIRE in WITHDRAWING and of its CANCEL (07 Table 7-4). -/
def WithdrawOutcome.replies : WithdrawOutcome → WithdrawCause → ResultCode × ResultCode
  | .isHolder, _ => (.granted, .tooLate)
  | .withdrawn, .timer => (.timeout, .tooLate)
  | .withdrawn, .cancel => (.cancelled, .done)
  | .notWaiting, .timer => (.timeout, .tooLate)
  | .notWaiting, .cancel => (.cancelled, .done)

/-- The outcome of a FREE ends the oldest RELEASE of the pair in APPLY_WAIT (07 R121). -/
theorem State.freeOutcome_released {o : Owner} {l : Byte} {x : FreeOutcome} {before after : List Operation}
    (h : s.ops.live = before ++ ⟨tag, .release o l .applyWait⟩ :: after)
    (hbefore : ∀ op ∈ before, op.body ≠ .release o l .applyWait) :
    s.freeOutcome o l x = { s with
      ops :=
        { live := before ++ after
          holds := s.ops.holds.filter fun h => !(h.owner = o && h.lock = l && h.releasing) }
      port := { s.port with
        replies := s.port.replies ++ [⟨tag, .release, x.reply, []⟩] } } := by
  unfold State.freeOutcome
  rw [State.complete_of_split (s := s.withOps (s.ops.dropReleasing o l)) _ h (by simpa using hbefore) (by simp)]
  cases x <;> rfl

/-- The outcome of a WITHDRAW ends the ACQUIRE that is WITHDRAWING, by its cause (07 R125, Table 7-4). -/
theorem State.withdrawOutcome_ends {cause : WithdrawCause} {x : WithdrawOutcome} (hphase : a.phase = .withdrawing cause)
    (h : AcquireLives s.ops.live tag a cancel others) :
    s.withdrawOutcome a.owner a.lock x = { s with
      ops :=
        { live := others
          holds := if x = .isHolder then withHold s.ops.holds a.lock a.owner a.mode else s.ops.holds }
      port := { s.port with
        replies := s.port.replies ++ pairReplies tag (x.replies cause).1 cancel (x.replies cause).2 } } := by
  simp only [State.withdrawOutcome, OpsUnit.acquire_of_lives h, hphase]
  cases x with
  | isHolder => exact State.completeAcquire_of_lives (s := s.addHold a.owner a.lock a.mode) .granted .tooLate h
  | withdrawn | notWaiting => cases cause <;> exact State.completeAcquire_of_lives _ _ h

/-- With no ACQUIRE in WITHDRAWING the outcome is discarded. -/
theorem State.withdrawOutcome_discarded {o : Owner} {l : Byte} {x : WithdrawOutcome}
    (h : ∀ a cause, s.ops.acquire o l = some a → a.phase ≠ .withdrawing cause) : s.withdrawOutcome o l x = s := by
  unfold State.withdrawOutcome
  split
  · rfl
  · next a ha =>
    split
    · next cause hphase => exact absurd hphase (h a cause ha)
    · rfl

/-! ### Grants (07 R119) -/

/-- The state with the ACQUIRE granted: a HELD record, and its reply with TOO_LATE for its CANCEL. -/
abbrev State.granted (s : State) (o : Owner) (l : Byte) (m : Mode) (tag : Byte) (cancel : Option Byte)
    (others : List Operation) : State :=
  { s with
    ops := { live := others, holds := withHold s.ops.holds l o m }
    port := { s.port with replies := s.port.replies ++ pairReplies tag .granted cancel .tooLate } }

theorem State.grantNotice_queued {m : Mode} {r : Timer} (hphase : a.phase = .queued r)
    (h : AcquireLives s.ops.live tag a cancel others) :
    s.grantNotice a.owner a.lock m = s.granted a.owner a.lock m tag cancel others := by
  simp only [State.grantNotice, OpsUnit.acquire_of_lives h, hphase]
  exact State.completeAcquire_of_lives (s := s.addHold a.owner a.lock m) .granted .tooLate h

/-- A grant of a WITHDRAWING ACQUIRE takes its WITHDRAW back. -/
theorem State.grantNotice_withdrawing {m : Mode} {cause : WithdrawCause} (hphase : a.phase = .withdrawing cause)
    (h : AcquireLives s.ops.live tag a cancel others) :
    s.grantNotice a.owner a.lock m
      = (s.askRemoval (.lock .withdraw a.owner a.lock)).granted a.owner a.lock m tag cancel others := by
  simp only [State.grantNotice, OpsUnit.acquire_of_lives h, hphase]
  exact State.completeAcquire_of_lives
    (s := (s.addHold a.owner a.lock m).askRemoval (.lock .withdraw a.owner a.lock)) .granted .tooLate h

/-- Where no ACQUIRE of the pair is QUEUED or WITHDRAWING, the record is all. -/
theorem State.grantNotice_alone {o : Owner} {l : Byte} {m : Mode}
    (h : ∀ a, s.ops.acquire o l = some a → (∀ r, a.phase ≠ .queued r) ∧ ∀ cause, a.phase ≠ .withdrawing cause) :
    s.grantNotice o l m = s.addHold o l m := by
  unfold State.grantNotice
  split
  · rfl
  · next a ha =>
    obtain ⟨hqueued, hwithdrawing⟩ := h a ha
    split
    · next r hphase => exact absurd hphase (hqueued r)
    · next cause hphase => exact absurd hphase (hwithdrawing cause)
    · rfl

end
end Sys2Proof.Machine

namespace Sys2Proof.LocalOperations
open Sys2Proof.Machine Sys2Proof.Safety

/-- Settles O32: QUEUED parks the ACQUIRE or starts its withdrawal; any other outcome completes it. -/
theorem claimOutcomeDecidesTheAcquire : Obligations.ClaimOutcomeDecidesTheAcquire := by
  refine ⟨fun s a tag others x rest hr hops hnotices hphase hattached => ⟨?_, ?_⟩,
    fun s a tag ct others x rest hr hops hnotices hphase hattached => ⟨?_, ?_⟩⟩
  · rintro live' rfl h
    exact (execClaimOutcome_taken hr hops hnotices).trans
      (congrArg _ (State.claimOutcome_queued (s := s.opsTaken rest) hphase hattached h))
  · intro code hcode hlives
    exact (execClaimOutcome_taken hr hops hnotices).trans
      (congrArg _ (State.claimOutcome_decided (s := s.opsTaken rest) (ClaimOutcome.reply_of_mem hcode) hphase hlives))
  · rintro live' rfl h
    refine (execClaimOutcome_taken hr hops hnotices).trans
      (congrArg _ ((State.claimOutcome_queued_attached (s := s.opsTaken rest) hphase hattached h).trans ?_))
    exact State.beginWithdraw_of_becomes (s := s.opsTaken rest) h
  · intro code hcode hlives
    exact (execClaimOutcome_taken hr hops hnotices).trans
      (congrArg _ (State.claimOutcome_decided (s := s.opsTaken rest) (ClaimOutcome.reply_of_mem hcode) hphase hlives))

/-- Settles O33: the RELEASE in APPLY_WAIT, or the ACQUIRE in WITHDRAWING, completes with its outcome. -/
theorem freeAndWithdrawOutcomesEndOperations : Obligations.FreeAndWithdrawOutcomesEndOperations := by
  refine ⟨fun s o l x rest before after tag hr hops hnotices hlive hbefore => ?_,
    fun s o l x rest hr hops hnotices => ⟨?_, fun hnone => ?_⟩⟩
  · refine (execFreeOutcome_taken hr hops hnotices).trans
      (congrArg _ ((State.freeOutcome_released (s := s.opsTaken rest) hlive hbefore).trans ?_))
    cases x <;> rfl
  · rintro a cause tag cancel others rfl rfl hphase hlives
    refine (execWithdrawOutcome_taken hr hops hnotices).trans
      (congrArg _ ((State.withdrawOutcome_ends (s := s.opsTaken rest) hphase hlives).trans ?_))
    cases x <;> cases cause <;> rfl
  · exact (execWithdrawOutcome_taken hr hops hnotices).trans
      (congrArg _ (State.withdrawOutcome_discarded (s := s.opsTaken rest) hnone))

/-- Settles O34: the ACQUIRE completes by its phase, and the answer to the removal of a stale WITHDRAW is followed. -/
theorem grantNoticeGrantsTheAcquire : Obligations.GrantNoticeGrantsTheAcquire := by
  refine fun s o l m rest hr hops => ⟨?_, fun hnone => ?_⟩
  · rintro a tag cancel others rfl rfl hlives hphases
    refine ⟨_, execGrantNotice_taken hr hops, ?_⟩
    rcases hphases with ⟨r, hphase⟩ | ⟨cause, hphase⟩
    · rw [State.grantNotice_queued (s := s.opsTaken rest) hphase hlives]
      exact ⟨State.settleAlive_sched_only _, fun _ => State.settleAlive_settled rfl, by simp [hphase], by simp [hphase]⟩
    · rw [State.grantNotice_withdrawing (s := s.opsTaken rest) hphase hlives]
      refine ⟨State.settleAlive_sched_only _, by simp [hphase], fun _ hline => ?_, fun _ hline => ⟨fun hlisted => ?_,
        fun hgone => ?_⟩⟩
      · rw [State.askRemoval, Sched.remove_on_line _ _ hline, State.settleAlive_of_on_line _ (by simp [hline])]
        rfl
      · rw [State.askRemoval, Sched.remove_listed _ _ hline hlisted, Sched.take_eq_itemGone]
        exact State.settleAlive_settled rfl
      · rw [State.askRemoval, Sched.remove_absent _ _ hline hgone]
        exact State.settleAlive_settled rfl
  · refine ⟨_, execGrantNotice_taken hr hops, ?_⟩
    rw [State.grantNotice_alone (s := s.opsTaken rest) hnone]
    exact ⟨State.settleAlive_settled rfl, State.settleAlive_sched_only _⟩

end Sys2Proof.LocalOperations
end


section
/-! PROOFS. The requests ACQUIRE, RELEASE and CANCEL (07 R115 to R117, R120, R126, R127), and when any request is taken
(07 R111). -/
namespace Sys2Proof.Machine
open Sys2Proof.Safety

/-! ### When a request is taken (07 R111) -/

/-- Each request's command takes it by a decision of its own. -/
theorem exec_requestCommand (k : RequestKind) :
    ∃ decision, ∀ s, exec (requestCommand k) s = s.whenRunning fun s => s.takeRequest k decision := by
  cases k <;> exact ⟨_, fun _ => rfl⟩

/-- SETUP and QUERY_STATION alone are decided before SETUP. -/
theorem RequestKind.beforeSetup_eq_false {k : RequestKind} (hsetup : k ≠ .setup) (hquery : k ≠ .queryStation) :
    k.beforeSetup = false := by
  cases k <;> simp_all [RequestKind.beforeSetup]

/-- Of these, ACK alone carries no tag. -/
theorem RequestKind.tag_eq {k : RequestKind} (bytes : List Byte) (hsetup : k ≠ .setup) :
    k.tag bytes = if k = .ack then 0 else bytes.getD 0 0 := by
  cases k <;> simp_all [RequestKind.tag, arg]

/-! ### The hold table (07 R114) -/

/-- The change of a HELD record, in the words of the statements. -/
theorem OpsUnit.updateHeld_eq (u : OpsUnit) (o : Owner) (l : Byte) (f : HoldRecord → HoldRecord) :
    u.updateHeld o l f = { u with
      holds := u.holds.map fun h => if h.owner = o ∧ h.lock = l ∧ h.releasing = false then f h else h } := by
  simp [OpsUnit.updateHeld, HoldRecord.isFor, and_assoc]

/-! ### ACQUIRE (07 R115 to R117) -/

section
variable {s : State} {bytes : List Byte}

theorem State.decideAcquire_notMember (hstate : s.join.state ≠ .member) :
    s.decideAcquire bytes = s.answer .acquire bytes .notMember [] := if_pos hstate

theorem State.decideAcquire_badArg (hstate : s.join.state = .member) (hbits : acquireBitsClear (arg bytes 1) = false) :
    s.decideAcquire bytes = s.answer .acquire bytes .badArg [] := by
  simp [State.decideAcquire, hstate, hbits]

theorem State.decideAcquire_badLock (hstate : s.join.state = .member) (hbits : acquireBitsClear (arg bytes 1) = true)
    (hlock : s.badLock (argLock bytes) = true) :
    s.decideAcquire bytes = s.answer .acquire bytes .badLock [] := by
  have hbad : s.badLock (newAcquire bytes).lock = true := hlock
  simp [State.decideAcquire, hstate, hbits, hbad]

section
variable (hstate : s.join.state = .member) (hbits : acquireBitsClear (arg bytes 1) = true)
  (hlock : s.badLock (argLock bytes) = false)
include hstate hbits hlock

/-- An ACQUIRE that passes the checks, with a HELD record of its pair. -/
theorem State.decideAcquire_held {h : HoldRecord} (hheld : s.ops.held (argOwner bytes) (argLock bytes) = some h) :
    s.decideAcquire bytes = s.reenter bytes h (newAcquire bytes) := by
  have hgood : s.badLock (newAcquire bytes).lock = false := hlock
  have hfound : s.ops.held (newAcquire bytes).owner (newAcquire bytes).lock = some h := hheld
  simp [State.decideAcquire, hstate, hbits, hgood, hfound]

/-- An ACQUIRE that passes the checks, with none. -/
theorem State.decideAcquire_new (hheld : s.ops.held (argOwner bytes) (argLock bytes) = none) :
    s.decideAcquire bytes = s.newClaim bytes (newAcquire bytes) := by
  have hgood : s.badLock (newAcquire bytes).lock = false := hlock
  have hfound : s.ops.held (newAcquire bytes).owner (newAcquire bytes).lock = none := hheld
  simp [State.decideAcquire, hstate, hbits, hgood, hfound]

end

/-- A re-entrant ACQUIRE that fits the mode, below depth 8 (07 R115). -/
theorem State.reenter_granted {h : HoldRecord} {a : Acquire} (hmode : ¬ (h.mode = .s ∧ a.mode = .x))
    (hdepth : h.depth < 8) :
    s.reenter bytes h a =
      (s.withOps (s.ops.updateHeld a.owner a.lock fun h => { h with depth := h.depth + 1 })).answer
        .acquire bytes .granted [] :=
  (if_neg hmode).trans (if_neg (Nat.not_le.2 hdepth))

/-- When the fast refusal applies (07 R117). -/
theorem State.fastBusy_iff (a : Acquire) :
    s.fastBusy a = true ↔ a.wait = false ∧ s.ops.releasing a.owner a.lock = false
      ∧ (s.replica.entry a.lock).state ≠ .unknown ∧ (s.replica.entry a.lock).grantable a.mode = false := by
  simp [State.fastBusy, and_assoc]

section
variable {a : Acquire} (hlives : s.ops.acquire a.owner a.lock = none)
include hlives

theorem State.newClaim_holdFull (hload : 64 ≤ s.ops.load) :
    s.newClaim bytes a = s.answer .acquire bytes .holdFull [] := by
  simp [State.newClaim, hlives, Config.holdLimit, hload]

theorem State.newClaim_busy (hload : s.ops.load < 64) (hbusy : s.fastBusy a = true) :
    s.newClaim bytes a = s.answer .acquire bytes .busy [] := by
  simp [State.newClaim, hlives, Config.holdLimit, Nat.not_le.2 hload, hbusy]

theorem State.newClaim_sent (hload : s.ops.load < 64) (hbusy : s.fastBusy a = false) :
    s.newClaim bytes a = s.sendClaim (arg bytes 0) a := by
  simp [State.newClaim, hlives, Config.holdLimit, Nat.not_le.2 hload, hbusy]

end

/-! ### The checks of RELEASE and CANCEL (07 R120, R126) -/

theorem State.badOwnerOrLock_badArg (hbits : highBitsClear (arg bytes 1) = false) :
    s.badOwnerOrLock bytes = some .badArg := by
  simp [State.badOwnerOrLock, hbits]

section
variable (hbits : highBitsClear (arg bytes 1) = true)
include hbits

theorem State.badOwnerOrLock_badLock (hlock : s.badLock (argLock bytes) = true) :
    s.badOwnerOrLock bytes = some .badLock := by
  simp [State.badOwnerOrLock, hbits, hlock]

theorem State.badOwnerOrLock_none (hlock : s.badLock (argLock bytes) = false) :
    s.badOwnerOrLock bytes = none := by
  simp [State.badOwnerOrLock, hbits, hlock]

end

/-! ### RELEASE (07 R120) -/

theorem State.decideRelease_refused {code : ResultCode} (h : s.badOwnerOrLock bytes = some code) :
    s.decideRelease bytes = s.answer .release bytes code [] := by
  simp [State.decideRelease, h]

section
variable (hgood : s.badOwnerOrLock bytes = none)
include hgood

theorem State.decideRelease_notHolder (hheld : s.ops.held (argOwner bytes) (argLock bytes) = none) :
    s.decideRelease bytes = s.answer .release bytes .notHolder [] := by
  simp [State.decideRelease, hgood, hheld]

theorem State.decideRelease_held {h : HoldRecord} (hheld : s.ops.held (argOwner bytes) (argLock bytes) = some h) :
    s.decideRelease bytes = s.releaseHeld bytes h := by
  simp [State.decideRelease, hgood, hheld]

end

/-! ### CANCEL (07 R126, R127) -/

theorem State.decideCancel_refused {code : ResultCode} (h : s.badOwnerOrLock bytes = some code) :
    s.decideCancel bytes = s.answer .cancel bytes code [] := by
  simp [State.decideCancel, h]

/-- The targets that are none (07 Table 7-5). -/
theorem Acquire.noTarget_iff (a : Acquire) :
    a.noTarget = true ↔ a.attached = true ∨ ∃ cause, a.phase = .withdrawing cause := by
  unfold Acquire.noTarget
  cases a.phase <;> simp

section
variable (hgood : s.badOwnerOrLock bytes = none)
include hgood

theorem State.decideCancel_noTarget
    (h : ∀ a, s.ops.acquire (argOwner bytes) (argLock bytes) = some a → a.noTarget = true) :
    s.decideCancel bytes = s.answer .cancel bytes .noTarget [] := by
  simp only [State.decideCancel, hgood]
  split
  · rfl
  · next a ha => rw [if_pos (h a ha)]

theorem State.decideCancel_target {a : Acquire} (hfound : s.ops.acquire (argOwner bytes) (argLock bytes) = some a)
    (htarget : a.noTarget = false) : s.decideCancel bytes = (s.cancelTarget (arg bytes 0) a).settleAlive := by
  simp [State.decideCancel, hgood, hfound, htarget]

end
end

/-- A change of an ACQUIRE in two parts, an operation becoming live between them. -/
theorem becomes_in_two {live live' : List Operation} {a a' a'' : Acquire} {op : Operation}
    (h : AcquireBecomes live live' a a'') (howner : a'.owner = a.owner) (hlock : a'.lock = a.lock)
    (hop : op.isAcquire a.owner a.lock = false) :
    ∃ mid, AcquireBecomes live mid a a' ∧ AcquireBecomes (mid ++ [op]) (live' ++ [op]) a' a'' := by
  obtain ⟨before, after, tag, hlive, hothers, rfl⟩ := h
  refine ⟨before ++ ⟨tag, .acquire a'⟩ :: after, ⟨before, after, tag, hlive, hothers, rfl⟩,
    before, after ++ [op], tag, by simp, ?_, by simp⟩
  rw [howner, hlock]
  intro x hx
  simp only [List.mem_append, List.mem_cons, List.not_mem_nil, or_false] at hx
  rcases hx with hx | hx | rfl
  · exact hothers x (List.mem_append_left _ hx)
  · exact hothers x (List.mem_append_right _ hx)
  · exact hop

section
variable {s : State} {a : Acquire} {tag : Byte} {live' : List Operation}

/-- The CANCEL becomes live behind its ACQUIRE. -/
theorem State.attach_of_becomes (h : AcquireBecomes s.ops.live live' a { a with attached := true }) :
    s.attach tag a.owner a.lock = { s with
      ops := { s.ops with live := live' ++ [⟨tag, .cancel a.owner a.lock⟩] } } := by
  obtain ⟨-, hupdate⟩ := OpsUnit.of_becomes (f := fun a => { a with attached := true }) h
  rw [State.attach, hupdate]
  rfl

/-- A target in QUEUED becomes WITHDRAWING (07 R126). -/
theorem State.cancelTarget_queued {r : Timer} (hphase : a.phase = .queued r)
    (h : AcquireBecomes s.ops.live live' a { a with phase := .withdrawing .cancel, attached := true }) :
    s.cancelTarget tag a = { s with
      ops := { s.ops with live := live' ++ [⟨tag, .cancel a.owner a.lock⟩] }
      sched := { s.sched with locks := s.sched.locks ++ [.withdraw a.owner a.lock] } } := by
  obtain ⟨mid, hattached, hwithdrawing⟩ := becomes_in_two (a' := { a with attached := true })
    (op := ⟨tag, .cancel a.owner a.lock⟩) h rfl rfl (by simp)
  simp only [State.cancelTarget, hphase, State.attach_of_becomes hattached]
  exact State.beginWithdraw_of_becomes (s := { s with ops := { s.ops with live := mid ++ _ } })
    (a := { a with attached := true }) hwithdrawing

/-- A target whose CLAIM is on the line or waits to be applied: the CANCEL waits too (07 R127). -/
theorem State.cancelTarget_waits (hphase : a.phase = .onLine ∨ a.phase = .applyWait)
    (h : AcquireBecomes s.ops.live live' a { a with attached := true }) :
    s.cancelTarget tag a = { s with
      ops := { s.ops with live := live' ++ [⟨tag, .cancel a.owner a.lock⟩] } } := by
  rcases hphase with hphase | hphase <;>
    simp only [State.cancelTarget, hphase, State.attach_of_becomes h]

/-- A target in OUTBOUND whose CLAIM is on the line is treated as ON_LINE (07 R127). -/
theorem State.cancelTarget_rescinded (hphase : a.phase = .outbound)
    (hline : s.sched.onLine = .item (.lock .claim a.owner a.lock))
    (h : AcquireBecomes s.ops.live live' a { a with phase := .onLine, attached := true }) :
    s.cancelTarget tag a = { s with
      ops := { s.ops with live := live' ++ [⟨tag, .cancel a.owner a.lock⟩] }
      sched := { s.sched with rescinded := true } } := by
  obtain ⟨mid, hattached, honLine⟩ := becomes_in_two (a' := { a with attached := true })
    (op := ⟨tag, .cancel a.owner a.lock⟩) h rfl rfl (by simp)
  simp only [State.cancelTarget, hphase, State.attach_of_becomes hattached, State.cancelOutbound,
    Sched.remove_on_line _ _ hline]
  exact State.setPhase_of_becomes (a := { a with attached := true })
    (s := { s with ops := { s.ops with live := mid ++ _ }, sched := { s.sched with rescinded := true } }) honLine

/-- An ACQUIRE that lives without a CANCEL lives with the one attached to it. -/
theorem State.attach_lives {target : Byte} {others : List Operation} (h : AcquireLives s.ops.live target a none others)
    (hothers : ∀ op ∈ others, op.isAcquire a.owner a.lock = false ∧ op.isCancel a.owner a.lock = false) :
    AcquireLives (s.attach tag a.owner a.lock).ops.live target { a with attached := true } (some tag) others := by
  obtain ⟨before, after, hlive, hbefore, -, rfl⟩ := h
  rw [State.attach_of_becomes (live' := before ++ ⟨target, .acquire { a with attached := true }⟩ :: after)
    ⟨before, after, target, hlive, fun op hop => (hothers op hop).1, rfl⟩]
  exact ⟨before, after ++ [⟨tag, .cancel a.owner a.lock⟩], by simp, hbefore, rfl, after, [], by simp,
    fun op hop => (hothers op (List.mem_append_right _ hop)).2, by simp⟩

/-- A target in OUTBOUND whose CLAIM is taken from its list completes, and the CANCEL with it (07 R127). -/
theorem State.cancelTarget_removed {target : Byte} {others : List Operation} (hphase : a.phase = .outbound)
    (hline : s.sched.onLine ≠ .item (.lock .claim a.owner a.lock))
    (hlisted : s.sched.holds (.lock .claim a.owner a.lock) = true) (h : AcquireLives s.ops.live target a none others)
    (hothers : ∀ op ∈ others, op.isAcquire a.owner a.lock = false ∧ op.isCancel a.owner a.lock = false) :
    s.cancelTarget tag a = { s with
      ops := { s.ops with live := others }
      port := { s.port with replies := s.port.replies ++ pairReplies target .cancelled (some tag) .done }
      sched := itemGone s.sched (.lock .claim a.owner a.lock) } := by
  simp only [State.cancelTarget, hphase]
  exact State.cancelOutbound_listed (s := s.attach tag a.owner a.lock) (a := { a with attached := true })
    (State.attach_lives h hothers) hline hlisted

end

/-- A scheduler whose lock list is not empty has a candidate (06 R101). -/
theorem Sched.candidate_ne_none_of_locks {c : Sched} (q : Bool) (h : c.locks ≠ []) : c.candidate q ≠ none := by
  intro hnone
  simp only [Sched.candidate, Option.orElse_eq_orElse, Option.orElse_eq_or, Option.or_eq_none_iff,
    Option.map_eq_none_iff, List.head?_eq_none_iff] at hnone
  exact h hnone.2.2

end Sys2Proof.Machine

namespace Sys2Proof.LocalOperations
open Sys2Proof.Machine Sys2Proof.Safety

/-- Settles O45: a request that does not stand is not taken, and one taken before SETUP is answered NOT_CONFIGURED. -/
theorem requestsWaitOrAreNotConfigured : Obligations.RequestsWaitOrAreNotConfigured := by
  intro k s
  obtain ⟨decision, hexec⟩ := exec_requestCommand k
  rw [hexec]
  refine ⟨fun hwaits => ?_, fun bytes ⟨hr, hbuffer, hroom⟩ hstate hsetup hquery => ?_⟩
  · simp only [State.whenRunning, State.takeRequest_waiting decision hwaits, ite_self]
  · rw [State.whenRunning_of_released s _ hr, State.takeRequest_standing decision hbuffer hroom,
      if_pos ⟨hstate, RequestKind.beforeSetup_eq_false hsetup hquery⟩, ← RequestKind.tag_eq bytes hsetup]
    rfl

/-- Settles O48: the checks in their order, then the HELD record, then the limits and the fast refusal. -/
theorem acquireIsCheckedThenClaimed : Obligations.AcquireIsCheckedThenClaimed := by
  intro s tag b l lo hi hstands hconf
  have hexec {t : State} (ht : (taken s).decideAcquire [tag, b, l, lo, hi] = t) : exec .acquire s = .next t :=
    (takeRequest_decides State.decideAcquire hstands hconf).trans (congrArg _ ht)
  refine ⟨fun hstate => hexec (State.decideAcquire_notMember hstate), fun hstate => ⟨fun hbits =>
    hexec (State.decideAcquire_badArg hstate (decide_eq_false hbits)), fun hbits => ?_⟩⟩
  replace hbits : acquireBitsClear b = true := decide_eq_true hbits
  refine ⟨fun hlock => hexec (State.decideAcquire_badLock hstate hbits (decide_eq_true hlock)), fun hlock => ?_⟩
  replace hlock : (taken s).badLock l = false := decide_eq_false (Nat.not_le.2 hlock)
  refine ⟨fun h hheld => ?_, fun hheld => ?_⟩
  · have hreenter := State.decideAcquire_held (s := taken s) (bytes := [tag, b, l, lo, hi]) hstate hbits hlock hheld
    refine ⟨fun hmode hx => hexec (hreenter.trans (if_pos ⟨hmode, hx⟩)), fun hmode hdepth =>
      hexec (hreenter.trans ((if_neg hmode).trans (if_pos hdepth))), fun hmode hdepth => ?_⟩
    refine hexec (hreenter.trans ((State.reenter_granted hmode hdepth).trans ?_))
    rw [OpsUnit.updateHeld_eq]
    rfl
  · have hnew := State.decideAcquire_new (s := taken s) (bytes := [tag, b, l, lo, hi]) hstate hbits hlock hheld
    refine ⟨fun hlives => hexec (hnew.trans (if_pos (Option.isSome_iff_ne_none.2 hlives))), fun hlives hload =>
      hexec (hnew.trans (State.newClaim_holdFull hlives hload)), fun hlives hload => ⟨?_, fun hsends => ?_⟩⟩
    · intro hwait hreleasing hknown hgrantable
      exact hexec (hnew.trans (State.newClaim_busy hlives hload
        ((State.fastBusy_iff _).2 ⟨hwait, hreleasing, hknown, hgrantable⟩)))
    · refine hexec (hnew.trans (State.newClaim_sent hlives hload (Bool.eq_false_iff.2 fun hbusy => ?_)))
      obtain ⟨hwait, hreleasing, hknown, hgrantable⟩ := (State.fastBusy_iff _).1 hbusy
      rcases hsends with h | h | h | h
      · exact Bool.false_ne_true (hwait.symm.trans h)
      · exact Bool.false_ne_true (hreleasing.symm.trans h)
      · exact hknown h
      · exact Bool.false_ne_true (hgrantable.symm.trans h)

/-- Settles O49: the checks in their order, then the depth of the HELD record. -/
theorem releaseLowersOrFrees : Obligations.ReleaseLowersOrFrees := by
  intro s tag b l hstands hconf
  have hexec {t : State} (ht : (taken s).decideRelease [tag, b, l] = t) : exec .release s = .next t :=
    (takeRequest_decides State.decideRelease hstands hconf).trans (congrArg _ ht)
  refine ⟨fun hbits => ?_, fun hbits hlock => ?_, fun hbits hlock => ?_⟩
  · exact hexec (State.decideRelease_refused (State.badOwnerOrLock_badArg (decide_eq_false hbits)))
  · exact hexec (State.decideRelease_refused
      (State.badOwnerOrLock_badLock (decide_eq_true hbits) (decide_eq_true hlock)))
  · have hgood : (taken s).badOwnerOrLock [tag, b, l] = none :=
      State.badOwnerOrLock_none (decide_eq_true hbits) (decide_eq_false (Nat.not_le.2 hlock))
    refine ⟨fun hheld => hexec (State.decideRelease_notHolder hgood hheld), fun h hheld => ⟨fun hdepth => ?_,
      fun hdepth => ?_⟩⟩
    · refine hexec ((State.decideRelease_held hgood hheld).trans ((if_pos hdepth).trans ?_))
      rw [OpsUnit.updateHeld_eq]
      rfl
    · refine hexec ((State.decideRelease_held hgood hheld).trans ((if_neg (Nat.not_lt.2 hdepth)).trans ?_))
      simp only [OpsUnit.updateHeld_eq]
      rfl

/-- Settles O50: the checks in their order, then the phase of the target. -/
theorem cancelActsByTheTargetsPhase : Obligations.CancelActsByTheTargetsPhase := by
  intro s tag b l hstands hconf
  have hexec {t : State} (ht : (taken s).decideCancel [tag, b, l] = t) : exec .cancel s = .next t :=
    (takeRequest_decides State.decideCancel hstands hconf).trans (congrArg _ ht)
  refine ⟨fun hbits => ?_, fun hbits hlock => ?_, fun hbits hlock => ?_⟩
  · exact hexec (State.decideCancel_refused (State.badOwnerOrLock_badArg (decide_eq_false hbits)))
  · exact hexec (State.decideCancel_refused
      (State.badOwnerOrLock_badLock (decide_eq_true hbits) (decide_eq_true hlock)))
  have hgood : (taken s).badOwnerOrLock [tag, b, l] = none :=
    State.badOwnerOrLock_none (decide_eq_true hbits) (decide_eq_false (Nat.not_le.2 hlock))
  refine ⟨fun hnone => ?_, ?_⟩
  · refine hexec (State.decideCancel_noTarget hgood fun a ha => ?_)
    cases hnone.symm.trans ha
  intro a hfound howner hpair
  have htarget (h : a.noTarget = false) {t : State} (ht : (taken s).cancelTarget tag a = t) :
      exec .cancel s = .next t.settleAlive :=
    ht ▸ hexec (State.decideCancel_target hgood hfound h)
  have hnew (hattached : a.attached = false) (hphase : ∀ cause, a.phase ≠ .withdrawing cause) : a.noTarget = false := by
    simp [Bool.eq_false_iff, a.noTarget_iff, hattached, hphase]
  refine ⟨fun hnone => ?_, fun live' r hattached hphase h => ?_, fun live' hattached hphase h => ?_,
    fun live' hattached hphase hline h => ?_, fun others target hattached hphase hline hlisted hlives hothers => ?_⟩
  · refine hexec (State.decideCancel_noTarget hgood fun a' ha' => ?_)
    cases hfound.symm.trans ha'
    exact a.noTarget_iff.2 hnone
  · rw [← howner, ← hpair]
    refine (htarget (hnew hattached (by simp [hphase])) (State.cancelTarget_queued hphase h)).trans
      (congrArg _ (State.settleAlive_of_candidate _ (Sched.candidate_ne_none_of_locks _ ?_)))
    simp
  · rw [← howner, ← hpair]
    refine ⟨_, htarget (hnew hattached ?_) (State.cancelTarget_waits hphase h), State.settleAlive_settled rfl,
      State.settleAlive_sched_only _⟩
    rcases hphase with hphase | hphase <;> simp [hphase]
  · rw [← howner, ← hpair] at hline ⊢
    exact (htarget (hnew hattached (by simp [hphase])) (State.cancelTarget_rescinded hphase hline h)).trans
      (congrArg _ (State.settleAlive_of_on_line _ fun hnothing => nomatch hline.symm.trans hnothing))
  · rw [← howner, ← hpair] at hline hlisted hothers ⊢
    exact ⟨_, htarget (hnew hattached (by simp [hphase]))
      (State.cancelTarget_removed hphase hline hlisted hlives hothers), State.settleAlive_sched_only _,
      State.settleAlive_settled rfl⟩

end Sys2Proof.LocalOperations
end


section
/-! PROOFS. The drop to OUT (09 R173): each block's part, and the replies of the live operations (07 R112, R132). -/
namespace Sys2Proof.Machine
open Sys2Proof.Safety

/-- A participant is neither UNCONFIGURED nor OUT: its drop changes the state (09 R152). -/
theorem StationState.code_ne_out {st : StationState} (h : st.participant = true) : st.code ≠ StationState.out.code := by
  cases st <;> simp_all [StationState.participant, StationState.code]

/-- The cause of an application goes before a withdrawal (log 5). -/
theorem HandOvers.dropDue_of_cause {h : HandOvers} {reason : DropReason}
    (hcause : h.dropCause = some reason ∨ (h.dropCause = none ∧ h.withdrawal = some reason)) :
    h.dropDue = some reason := by
  rcases hcause with hcause | ⟨hnone, hcause⟩
  · simp [HandOvers.dropDue, hcause]
  · simp [HandOvers.dropDue, hnone, hcause]

section
variable {s : State}

/-- The replica is forgotten, with MEMBERS where a record was not ABSENT (01 R28, 02 R49). -/
theorem State.discardReplica_eq (s : State) :
    s.discardReplica = { s with
      replica := emptyReplica s.straps
      port := { s.port with attention := s.port.attention
        ||| (if ∃ v : Station, s.replica.members[v].state ≠ .absent then 2 else 0) } } := by
  have hchanged : stateChanges s.replica (emptyReplica s.straps) = []
      ↔ ¬ ∃ v : Station, s.replica.members[v].state ≠ .absent := by
    simp [stateChanges_empty_iff]
  simp only [State.discardReplica]
  by_cases h : ∃ v : Station, s.replica.members[v].state ≠ .absent
  · rw [if_neg (fun h' => hchanged.1 h' h), if_pos h]
    rfl
  · rw [if_pos (hchanged.2 h), if_neg h]
    simp [State.withReplica]

/-- LONE becomes clear, with the LONE reason where it was set (08 R147). -/
theorem State.setLone_false (s : State) :
    s.setLone false = { s with
      monitor := { s.monitor with lone := false }
      port := { s.port with attention := s.port.attention ||| (if s.monitor.lone then 8 else 0) } } := by
  cases hlone : s.monitor.lone
  · simp [State.setLone, hlone, State.withMonitor]
  · simp [State.setLone, hlone, State.withMonitor, State.attend, State.withPort, HostPort.raise, attLone]

/-- The Join Controller's part at a participant: STATE, the reason recorded, timers and duty ended (09 R173). -/
theorem State.dropJoin_eq (reason : DropReason) (hstate : s.join.state.participant = true) :
    s.dropJoin reason = { s with
      join :=
        { state := .out, dropRecord := some reason, latch := false, joinWait := .stopped
          rejoin := s.rejoinAfter reason, duty := false, told := none }
      port := { s.port with attention := s.port.attention ||| 1 } } := by
  simp only [State.dropJoin, State.enter_of_code_ne (StationState.code_ne_out hstate)]
  rfl

/-- The drop, whole (09 R173). -/
theorem State.drop_eq (reason : DropReason) (hstate : s.join.state.participant = true) :
    s.drop reason = { s with
      join :=
        { state := .out, dropRecord := some reason, latch := false, joinWait := .stopped
          rejoin := s.rejoinAfter reason, duty := false, told := none }
      pli := s.pli.dropped
      intake := { s.intake with queue := [], valid := false }
      replica := emptyReplica s.straps
      sched := s.sched.dropped
      ops := ⟨[], []⟩
      monitor := { s.monitor.forget with ownSilence := .stopped, lone := false }
      port := { s.port with
        attention := ((s.port.attention ||| 1)
          ||| (if ∃ v : Station, s.replica.members[v].state ≠ .absent then 2 else 0))
          ||| (if s.monitor.lone then 8 else 0)
        replies := s.port.replies ++ dropReplies reason s.ops.live }
      hand := { s.hand with notices := [], itemRemoved := false, withdrawal := none, dropCause := none } } := by
  simp only [State.drop, State.dropJoin_eq (s := s.dropOps reason) reason hstate, State.dropMonitor,
    State.discardReplica_eq, State.setLone_false]
  simp only [State.dropOps, State.withOps, State.withPort, State.withPli, State.withIntake, State.withMonitor,
    State.withSched, State.withHand, Monitor.forget]
  rfl

/-- When the rejoin timer runs after a drop (09 R174). -/
theorem State.rejoinAfter_running {c : Settings} {reason : DropReason} (hsettings : s.settings = some c)
    (hauto : c.autoRejoin = true) (hreason : reason.rejoins = true) :
    s.rejoinAfter reason = .running ((s.straps.station.val + 1) * c.period.toNat) := by
  simp [State.rejoinAfter, hsettings, hauto, hreason, State.rejoinTicks, State.period]

theorem State.rejoinAfter_stopped {reason : DropReason}
    (h : reason.rejoins = false ∨ ∀ c, s.settings = some c → c.autoRejoin = false) :
    s.rejoinAfter reason = .stopped := by
  unfold State.rejoinAfter
  split
  · next c hsettings =>
    rcases h with h | h
    · simp [h]
    · simp [h c hsettings]
  · rfl

end
end Sys2Proof.Machine

namespace Sys2Proof.LocalOperations
open Sys2Proof.Machine Sys2Proof.Safety

/-- Settles O40: the drop that is due is taken whole, and each field is read off its equation. -/
theorem dropReturnsTheStationToOut : Obligations.DropReturnsTheStationToOut := by
  intro s reason hr hcause hstate hops hjoin hmonitor
  have hdue := HandOvers.dropDue_of_cause hcause
  have hdrained : s.hand.drained = true := by simp [HandOvers.drained, hops, hjoin, hmonitor]
  have hexec : execDrop s = .next (s.drop reason) := by
    simp [execDrop, State.whenRunning_of_released s _ hr, hdue, hstate, hdrained]
  refine ⟨_, (completions (fun _ => true) s.ops.live.length s.ops.live).1, hexec, completions_all s.ops.live, ?_⟩
  rw [State.drop_eq reason hstate]
  refine ⟨rfl, rfl, fun v => ?_, rfl, rfl, ?_, ?_, fun c hsettings hauto hreason => ?_, fun hauto => ?_,
    fun hreason => ?_⟩
  · simp [Monitor.forget]
  · refine congrArg (s.port.replies ++ ·) (List.map_congr_left fun op _ => ?_)
    cases reason with
    | left => cases op.body <;> rfl
    | evicted | withdrawnTx | withdrawnRx | refused => rfl
  · rfl
  · refine State.rejoinAfter_running hsettings hauto ?_
    rcases hreason with rfl | rfl | rfl <;> rfl
  · exact State.rejoinAfter_stopped (.inr hauto)
  · refine State.rejoinAfter_stopped (.inl ?_)
    rcases hreason with rfl | ⟨x, rfl⟩ <;> rfl

end Sys2Proof.LocalOperations
end


section
/-! PROOFS. The tick (08 R136, R137, R142, R146, Table 8-1): which edges are taken, and that one taken lowers every
timer that counts by one. -/
namespace Sys2Proof.Machine
open Sys2Proof.Safety

/-! ### Edges that are taken (08 R136, R137) -/

theorem tickTaken_iff (tsel edgeTaken : Bool) (source : TickSource) :
    tickTaken tsel edgeTaken source = true ↔
      (tsel = false ∧ source = .divider)
        ∨ ∃ cycles, tsel = true ∧ source = .pinEdge cycles ∧ (edgeTaken = false ∨ 64 ≤ cycles) := by
  cases source <;> simp [tickTaken, Config.tickPeriodMin]

theorem tickTaken_eq_false_iff (tsel edgeTaken : Bool) (source : TickSource) :
    tickTaken tsel edgeTaken source = false ↔
      (tsel = true ∧ source = .divider)
        ∨ ∃ cycles, source = .pinEdge cycles ∧ (tsel = false ∨ (edgeTaken = true ∧ cycles < 64)) := by
  cases source with
  | divider => simp [tickTaken]
  | pinEdge cycles => cases tsel <;> simp [tickTaken, Config.tickPeriodMin]

/-- The pin alone leaves a trace of its edges. -/
theorem State.edge_of_taken {s : State} {source : TickSource}
    (h : tickTaken s.straps.tsel s.edgeTaken source = true) :
    s.edge source = s.withEdgeTaken (s.edgeTaken || s.straps.tsel) := by
  rcases (tickTaken_iff _ _ _).1 h with ⟨htsel, rfl⟩ | ⟨cycles, htsel, rfl, -⟩
  · simp only [htsel, Bool.or_false]
    rfl
  · simp only [htsel, Bool.or_true]
    rfl

theorem exec_tick_taken {s : State} {source : TickSource} (quiet : Bool) (hr : s.resetHeld = false)
    (h : tickTaken s.straps.tsel s.edgeTaken source = true) :
    exec (.tick ⟨source, quiet⟩) s = .next ((s.withEdgeTaken (s.edgeTaken || s.straps.tsel)).tick quiet) := by
  refine (State.whenRunning_of_released s _ hr).trans (congrArg _ ((if_pos h).trans ?_))
  rw [State.edge_of_taken h]

theorem exec_tick_not_taken {s : State} {source : TickSource} (quiet : Bool)
    (h : tickTaken s.straps.tsel s.edgeTaken source = false) : exec (.tick ⟨source, quiet⟩) s = .next s := by
  have hkeep : (if tickTaken s.straps.tsel s.edgeTaken source then (s.edge source).tick quiet else s) = s :=
    if_neg (Bool.eq_false_iff.1 h)
  exact congrArg Host.Outcome.next ((congrArg (if s.resetHeld then s else ·) hkeep).trans (ite_self s))

/-! ### The timers of each block -/

theorem Timer.fallen_tick (t : Timer) : Fallen t t.tick := by
  cases t <;> rfl

/-- The wait timer falls in QUEUED (07 R122). -/
theorem Operation.tick_of_queued {op : Operation} {a : Acquire} {r : Timer} (hbody : op.body = .acquire a)
    (hphase : a.phase = .queued r) :
    op.tick = { op with body := .acquire { a with phase := .queued r.tick } } := by
  simp only [Operation.tick, hbody, hphase]

theorem Operation.tick_of_not_queued {op : Operation}
    (h : ∀ a r, op.body = .acquire a → a.phase ≠ .queued r) : op.tick = op := by
  unfold Operation.tick
  split
  · next a hbody =>
    split
    · next r hphase => exact absurd hphase (h a r hbody)
    · rfl
  · rfl

/-- The idle measure falls where the line lets it count (03 R57, 10 R181). -/
theorem Pli.tick_idle (p : Pli) (quiet : Bool) :
    if p.line = .idle ∨ (p.line = .unobserved ∧ quiet = true) then Fallen p.idle (p.tick quiet).idle
    else (p.tick quiet).idle = p.idle := by
  rw [← if_congr (p.countsIdle_iff quiet) rfl rfl]
  unfold Pli.tick
  split
  · exact p.idle.fallen_tick
  · rfl

theorem Monitor.tick_countdown (m : Monitor) (namesOther : Bool) (v : Station) :
    Fallen m.countdowns[v] (m.tick namesOther).countdowns[v] := by
  have hentry : (m.tick namesOther).countdowns[v] = m.countdowns[v].tick := by simp [Monitor.tick]
  rw [hentry]
  exact Timer.fallen_tick _

/-- Isolation falls while the member table names another station (08 R146). -/
theorem Monitor.tick_isolation (m : Monitor) (r : Replica) (self : Station) :
    if ∃ v : Station, v ≠ self ∧ r.members[v].state ≠ .absent then
      Fallen m.isolation (m.tick (r.namesOther self)).isolation
    else (m.tick (r.namesOther self)).isolation = m.isolation := by
  rw [← if_congr (r.namesOther_iff self) rfl rfl]
  unfold Monitor.tick
  split
  · exact m.isolation.fallen_tick
  · rfl

end Sys2Proof.Machine

namespace Sys2Proof.Presence
open Sys2Proof.Machine Sys2Proof.Safety

/-- Settles O5: an edge is taken or not, and the tick of one taken is the tick of each block's timers. -/
theorem ticksReachEveryTimer : Obligations.TicksReachEveryTimer := by
  refine ⟨fun source quiet s hr hsource => ?_, fun source quiet s hsource => ?_⟩
  · refine ⟨_, exec_tick_taken quiet hr ((tickTaken_iff _ _ _).2 hsource), rfl, rfl, s.pli.tick_idle quiet,
      Timer.fallen_tick _, s.monitor.tick_countdown _, s.monitor.tick_isolation s.replica s.straps.station,
      Timer.fallen_tick _, Timer.fallen_tick _, List.length_map _, fun n op hop => ?_⟩
    have hticked : (s.ops.live.map Operation.tick)[n]? = some op.tick := by rw [List.getElem?_map, hop]; rfl
    refine ⟨fun a r hbody hphase => ⟨r.tick, r.fallen_tick, ?_⟩, fun hother => ?_⟩
    · exact hticked.trans (congrArg some (Operation.tick_of_queued hbody hphase))
    · exact hticked.trans (congrArg some (Operation.tick_of_not_queued hother))
  · exact exec_tick_not_taken quiet ((tickTaken_eq_false_iff _ _ _).2 hsource)

end Sys2Proof.Presence
end


section
/-! PROOFS. The EVICT items (08 R143 to R145, 06 R98, R105): the test at a silence countdown's expiry, and what one
hand-over takes back and queues again. -/
namespace Sys2Proof.Machine
open Sys2Proof.Safety

/-! ### The eviction test (08 R143) -/

theorem Sched.holds_evict_eq_false_iff (c : Sched) (v : Station) :
    c.holds (evictId v) = false ↔ ∀ i ∈ c.control, i.purpose ≠ .evict v :=
  c.holds_id_eq_false_iff (.evict v 0)

theorem Monitor.thirdRunning_eq_false_iff (m : Monitor) (self v : Station) :
    m.thirdRunning self v = false ↔ ∀ w : Station, w ≠ self → w ≠ v → m.countdowns[w].isRunning = false := by
  simp only [Bool.eq_false_iff, ne_eq, m.thirdRunning_iff, not_exists, not_and]

section
variable {s : State} {v : Station}

theorem State.testEviction_sched_queued (hthird : s.monitor.thirdRunning s.straps.station v = true)
    (hnone : s.sched.holds (evictId v) = false) :
    (s.testEviction v).sched = { s.sched with control := s.sched.control ++ [.evict v s.monitor.counts[v]] } :=
  (congrArg State.sched (if_pos hthird)).trans (s.sched.queueControl_new _ hnone)

/-- One EVICT of a station at a time (06 R98). -/
theorem State.testEviction_sched_of_held (hheld : s.sched.holds (evictId v) = true) :
    (s.testEviction v).sched = s.sched := by
  unfold State.testEviction
  split
  · exact s.sched.queueControl_held _ hheld
  · rfl

theorem State.testEviction_sched_of_unheard (hthird : s.monitor.thirdRunning s.straps.station v = false) :
    (s.testEviction v).sched = s.sched :=
  congrArg State.sched (if_neg (Bool.eq_false_iff.1 hthird))

theorem State.testEviction_sched_only (s : State) (v : Station) :
    s.testEviction v = { s with sched := (s.testEviction v).sched } := by
  unfold State.testEviction
  split <;> rfl

end

/-- Whose countdowns run is not changed by an expiry, which ends one that is due. -/
theorem Monitor.expired_isRunning {m : Monitor} {v : Station} (hdue : m.countdowns[v] = .due) (w : Station) :
    (m.setCountdown v .expired).countdowns[w].isRunning = m.countdowns[w].isRunning := by
  have hentry : (m.setCountdown v .expired).countdowns[w] = if w = v then .expired else m.countdowns[w] :=
    getElem_set_station _ _ _ _
  rw [hentry]
  split
  · next hw => rw [hw, hdue]; rfl
  · rfl

theorem Monitor.expired_thirdRunning {m : Monitor} {v : Station} (hdue : m.countdowns[v] = .due) (self : Station) :
    (m.setCountdown v .expired).thirdRunning self v = m.thirdRunning self v := by
  simp only [Monitor.thirdRunning, Monitor.expired_isRunning hdue]

/-! ### One hand-over at the scheduler (08 R144, R145) -/

/-- An EVICT item answers to its own station alone. -/
theorem any_evict_eq (q : Station → Bool) (v : Station) :
    ((List.finRange 16).any fun w => q w && decide (Purpose.evict v = .evict w)) = q v := by
  rw [Bool.eq_iff_iff]
  simp

/-- The EVICT of v is taken back: v sent the frame, or its record became ABSENT (08 R145). -/
def MonitorHandOver.takesBack (h : MonitorHandOver) (v : Station) : Bool := decide (v = h.sender ∨ h.ended v = true)

theorem MonitorHandOver.takesBack_iff (h : MonitorHandOver) (v : Station) :
    h.takesBack v = true ↔ v = h.sender ∨ (v, RecordTag.absent) ∈ h.changes := by
  rw [MonitorHandOver.takesBack, decide_eq_true_eq, h.ended_iff]

/-- The scheduler once the EVICTs are taken back. -/
def Sched.evictsTakenBack (c : Sched) (h : MonitorHandOver) : Sched :=
  c.removeEvictsOf h.takesBack (List.finRange 16)

/-- The stations that a re-test evicts: EXPIRED, a third one still heard, and no EVICT of theirs in the list (08 R144). -/
def Monitor.evictable (m : Monitor) (self : Station) (c : Sched) : List Station :=
  (List.finRange 16).filter fun v => decide (v ≠ self) && decide (m.countdowns[v] = .expired) && m.thirdRunning self v
    && !c.holds (evictId v)

theorem Monitor.mem_evictable {m : Monitor} {self : Station} {c : Sched} {v : Station} :
    v ∈ m.evictable self c ↔ v ≠ self ∧ m.countdowns[v] = .expired
      ∧ (∃ w, w ≠ self ∧ w ≠ v ∧ m.countdowns[w].isRunning = true) ∧ ∀ i ∈ c.control, i.purpose ≠ .evict v := by
  simp only [Monitor.evictable, List.mem_filter, List.mem_finRange, true_and, Bool.and_eq_true, decide_eq_true_eq,
    Bool.not_eq_true', c.holds_evict_eq_false_iff, m.thirdRunning_iff, and_assoc]

theorem Monitor.evictable_ascending (m : Monitor) (self : Station) (c : Sched) :
    (m.evictable self c).Pairwise (fun v w => v < w) :=
  (List.sortedLT_finRange 16).pairwise.filter _

/-- The stations whose EVICTs a hand-over queues: those that the re-test evicts, where a countdown became RUNNING. -/
def State.evictedAgain (s : State) (h : MonitorHandOver) : List Station :=
  if (List.finRange 16).any fun v => s.countdownCreated h v || s.countdownLoaded h v then
    (s.monitorAfter h).evictable s.straps.station (s.sched.evictsTakenBack h)
  else []

theorem State.evictedAgain_ascending (s : State) (h : MonitorHandOver) :
    (s.evictedAgain h).Pairwise (fun v w => v < w) := by
  unfold State.evictedAgain
  split
  · exact Monitor.evictable_ascending _ _ _
  · exact .nil

theorem State.retest_sched (s : State) :
    s.retest.sched = { s.sched with
      control := s.sched.control ++
        (s.monitor.evictable s.straps.station s.sched).map fun v => .evict v s.monitor.counts[v] } := by
  have hfold := retest_fold s.monitor s.self (List.finRange 16) (List.nodup_finRange 16) s rfl rfl
  rw [State.retest, hfold]
  rfl

theorem State.presenceHandOver_sched (s : State) (h : MonitorHandOver) :
    (s.presenceHandOver h).sched =
      { s.sched.evictsTakenBack h with
        control := (s.sched.evictsTakenBack h).control ++
          (s.evictedAgain h).map fun v => .evict v (s.monitorAfter h).counts[v] } := by
  simp only [State.presenceHandOver, State.clearLone_monitorAfter, State.removeEvicts_eq, State.evictedAgain]
  split
  · rw [State.retest_sched]
    rfl
  · simp only [List.map_nil, List.append_nil]
    rfl

/-- A hand-over that is taken: what it leaves at the Monitor and at the scheduler, before idleness is asked (log 39). -/
theorem exec_presenceHandOver_settled {s : State} {h : MonitorHandOver} {rest : List MonitorHandOver}
    (hr : s.resetHeld = false) (hq : s.hand.monitor = h :: rest) (hj : s.hand.join = [])
    (hopen : s.monitor.tickOpen = false) :
    ∃ u : State, exec .presenceHandOver s = .next u.settleAlive
      ∧ u.monitor = { s.monitorAfter h with lone := s.loneAfter h }
      ∧ u.sched = { s.sched.evictsTakenBack h with
          control := (s.sched.evictsTakenBack h).control ++
            (s.evictedAgain h).map fun v => .evict v (s.monitorAfter h).counts[v] } := by
  refine ⟨(s.withHand { s.hand with monitor := rest }).presenceHandOver h, ?_, ?_, State.presenceHandOver_sched _ h⟩
  · refine (State.whenRunning_of_released s (fun s => _) hr).trans ?_
    simp [hq, hj, hopen]
  · rw [State.presenceHandOver_eq]
    rfl

end Sys2Proof.Machine

namespace Sys2Proof.Presence
open Sys2Proof.Machine Sys2Proof.Safety

/-- Settles O8: the expiry is taken, and the eviction test decides by the third stations and by the item's place. -/
theorem silenceExpiryEvictsIfAThirdIsHeard : Obligations.SilenceExpiryEvictsIfAThirdIsHeard := by
  intro v s hr hdue hdone
  obtain ⟨hown, hbelow⟩ := hdone
  have hguard := And.intro hdue (And.intro hown ((s.monitor.dueBelow_eq_false_iff v.val).2 hbelow))
  have hthird := Monitor.expired_thirdRunning hdue s.straps.station
  refine ⟨(s.withMonitor (s.monitor.setCountdown v .expired)).testEviction v,
    (State.whenRunning_of_released s _ hr).trans (congrArg _ (if_pos hguard)),
    State.testEviction_sched_only _ v, fun hex hnone => ?_, fun hex => ?_, fun hall => ?_⟩
  · have hheard := (s.monitor.thirdRunning_iff s.straps.station v).2 hex
    exact State.testEviction_sched_queued (hthird.trans hheard) ((s.sched.holds_evict_eq_false_iff v).2 hnone)
  · exact State.testEviction_sched_of_held ((s.sched.holds_control (.evict v)).2 hex)
  · have hunheard := (s.monitor.thirdRunning_eq_false_iff s.straps.station v).2 hall
    exact State.testEviction_sched_of_unheard (hthird.trans hunheard)

/-- Settles O42: the removals of the EVICTs taken back, then the re-tests where a countdown became RUNNING. -/
theorem handOverQueuesAndTakesBackEvicts : Obligations.HandOverQueuesAndTakesBackEvicts := by
  intro s h rest hr hq hj hdone hiso evict ended takenBack becameRunning
  obtain ⟨u, hexec, hmonitor, hsched⟩ := exec_presenceHandOver_settled hr hq hj (State.tickOpen_eq_false hdone hiso)
  have hsettled : u.settleAlive.monitor = { s.monitorAfter h with lone := s.loneAfter h } := by
    rw [State.settleAlive_sched_only, hmonitor]
  obtain ⟨hlocks, honLine, hheld, hrescinded, hmark, hretry, hcontrol⟩ :=
    s.sched.removeEvictsOf_spec h.takesBack (List.finRange 16)
  have hback (v : Station) : h.takesBack v = true ↔ takenBack v := h.takesBack_iff v
  refine ⟨u.settleAlive, u.sched, hexec, State.settleAlive_settled rfl, ?_⟩
  rw [hsettled, hsched]
  refine ⟨hlocks, honLine, hheld, ?_, fun v hv => hmark v (List.mem_finRange v) ((hback v).2 hv),
    fun hnone => hretry fun v _ hv => hnone v ((hback v).1 hv), (s.sched.evictsTakenBack h).control,
    s.evictedAgain h, rfl, ?_, s.evictedAgain_ascending h, fun v => ?_⟩
  · refine hrescinded.trans (or_congr_right (exists_congr fun v => ?_))
    rw [hback v]
    exact and_iff_right (List.mem_finRange v)
  · refine hcontrol.trans (List.filter_congr fun i _ => ?_)
    cases i.purpose with
    | alive | membership | donor => simp
    | evict v =>
      rw [any_evict_eq fun w => h.takesBack w && !decide (s.sched.onLine = .item (evictId w))]
      simp [MonitorHandOver.takesBack, MonitorHandOver.ended, evict]
  · have hran := s.becomesRunning_iff h
    unfold State.evictedAgain
    split
    · next hany => exact Monitor.mem_evictable.trans (and_iff_right (hran.1 hany)).symm
    · next hnot => exact iff_of_false List.not_mem_nil fun hmem => hnot (hran.2 hmem.1)

end Sys2Proof.Presence
end

section
/-! PROOFS. The join wait's expiry (09 R157 to R159): the station founds, asks again, or leaves a fabric that has no
member. -/
namespace Sys2Proof.Machine
open Sys2Proof.Safety

/-- Nothing is left where no fabric is held, nor where some record is MEMBER (09 R157). -/
theorem Replica.memberless_eq_false {r : Replica}
    (h : r.fabric = none ∨ ∃ v : Station, r.members[v].state = .member) : r.memberless = false := by
  rw [Bool.eq_false_iff, ne_eq, r.memberless_iff]
  rintro ⟨hheld, hnone⟩
  rcases h with hfab | ⟨v, hv⟩
  · exact hheld hfab
  · exact hnone v hv

section
variable {s : State} {sub : JoiningSub} (hjoining : s.join.state = .joining sub)
include hjoining

/-- JOINING and FOUNDING are different states to the host: STATE is set (09 R158). -/
theorem State.founds_of_joining :
    ((s.enter .founding).setJoinWait .stopped).queueMembership .found = { s with
      join := { s.join with state := .founding, joinWait := .stopped }
      port := { s.port with attention := s.port.attention ||| 1 }
      sched := s.sched.queueControl (.membership .found) } := by
  rw [State.enter_of_code_ne (by simp [hjoining, StationState.code])]
  rfl

/-- A joiner that asks again stays in JOINING: STATE is not set (09 R159). -/
theorem State.sendJoin_of_joining :
    s.sendJoin = { s with
      join := { s.join with state := .joining .sendJoin, joinWait := .stopped }
      sched := s.sched.queueControl (.membership .join) } := by
  simp only [State.sendJoin]
  rw [State.enter_of_code_eq (by simp [hjoining, StationState.code])]
  rfl

/-- The joiner that leaves a fabric without a member, whole (09 R157). -/
theorem State.leaveMemberless_eq :
    s.leaveMemberless = { s with
      replica := emptyReplica s.straps
      intake := { s.intake with valid := false }
      monitor := { s.monitor.forget with lone := false }
      join := { s.join with state := .joining .sendJoin, joinWait := .stopped, latch := false }
      sched := s.sched.queueControl (.membership .join)
      port := { s.port with
        attention := (s.port.attention ||| (if ∃ v : Station, s.replica.members[v].state ≠ .absent then 2 else 0))
          ||| (if s.monitor.lone then 8 else 0) } } := by
  simp only [State.leaveMemberless, State.discardReplica_eq, State.setLone_false]
  exact State.sendJoin_of_joining hjoining

end

section
variable {s : State} (hr : s.resetHeld = false) (hdue : s.join.joinWait = .due)
include hr hdue

theorem execJoinWaitExpiry_founds (hstate : s.join.state = .joining .awaitHead)
    (hmember : s.replica.memberless = false) (hlatch : s.join.latch = false) :
    execJoinWaitExpiry s = .next (((s.enter .founding).setJoinWait .stopped).queueMembership .found) := by
  simp [execJoinWaitExpiry, State.whenRunning_of_released s _ hr, hdue, hstate, hmember, hlatch]

theorem execJoinWaitExpiry_asksAgain
    (hstate : (s.join.state = .joining .awaitHead ∧ s.join.latch = true) ∨ s.join.state = .joining .loading)
    (hmember : s.replica.memberless = false) : execJoinWaitExpiry s = .next s.sendJoin := by
  rcases hstate with ⟨hstate, hlatch⟩ | hstate
  · simp [execJoinWaitExpiry, State.whenRunning_of_released s _ hr, hdue, hstate, hmember, hlatch]
  · simp [execJoinWaitExpiry, State.whenRunning_of_released s _ hr, hdue, hstate, hmember]

theorem execJoinWaitExpiry_leaves
    (hstate : s.join.state = .joining .awaitHead ∨ s.join.state = .joining .loading)
    (hmember : s.replica.memberless = true) : execJoinWaitExpiry s = .next s.leaveMemberless := by
  rcases hstate with hstate | hstate <;>
    simp [execJoinWaitExpiry, State.whenRunning_of_released s _ hr, hdue, hstate, hmember]

end
end Sys2Proof.Machine

namespace Sys2Proof.Joining
open Sys2Proof.Machine Sys2Proof.Safety

/-- Settles O9: at a fabric with a member, or at none, by the latch and the sub-state; else the joiner leaves, and each
field of the Monitor is read off the equation. -/
theorem joinWaitExpiryActsByState : Obligations.JoinWaitExpiryActsByState := by
  refine ⟨fun s hr hdue hfabric => ?_, fun s hr hdue hstate hfab hnone => ?_⟩
  · have hmember := Replica.memberless_eq_false hfabric
    refine ⟨fun hstate hlatch => ?_, fun hstate => ?_⟩
    · exact (execJoinWaitExpiry_founds hr hdue hstate hmember hlatch).trans
        (congrArg _ (State.founds_of_joining hstate))
    · obtain ⟨sub, hjoining⟩ : ∃ sub, s.join.state = .joining sub := hstate.elim (⟨_, ·.1⟩) (⟨_, ·⟩)
      exact (execJoinWaitExpiry_asksAgain hr hdue hstate hmember).trans
        (congrArg _ (State.sendJoin_of_joining hjoining))
  · obtain ⟨sub, hjoining⟩ : ∃ sub, s.join.state = .joining sub := hstate.elim (⟨_, ·⟩) (⟨_, ·⟩)
    refine ⟨_, execJoinWaitExpiry_leaves hr hdue hstate (s.replica.memberless_iff.2 ⟨hfab, hnone⟩), ?_⟩
    rw [State.leaveMemberless_eq hjoining]
    refine ⟨rfl, fun v => ?_, rfl, rfl, rfl, fun v => ?_, rfl⟩
    · simp [Monitor.forget]
    · simp [Monitor.forget]

end Sys2Proof.Joining
end


section
/-! PROOFS. Donor duty after an application (09 R167, R168): who has it, and what becomes of the donor item. -/
namespace Sys2Proof.Machine
open Sys2Proof.Safety

/-! ### The donor item (06 R98, R105) -/

namespace Sched
variable {c : Sched}

theorem dutyEnded_listed (hheld : c.holds (.control .donor) = true) (hline : c.onLine ≠ .item (.control .donor)) :
    c.dutyEnded = itemGone c (.control .donor) := by
  rw [← remove_donor_eq c hheld, remove_listed c _ hline hheld, take_eq_itemGone]

theorem dutyEnded_on_line (hheld : c.holds (.control .donor) = true) (hline : c.onLine = .item (.control .donor)) :
    c.dutyEnded = { c with rescinded := true } := by
  rw [← remove_donor_eq c hheld, remove_on_line c _ hline]

/-- The scheduler after an evaluation of donor duty: ACTIVE keeps a donor item queued, IDLE takes it back. -/
def dutyKept (c : Sched) (active : Bool) : Sched := if active then c.queueControl .donor else c.dutyEnded

end Sched

/-! ### The evaluation (09 R167) -/

/-- Donor duty is ACTIVE for this donor and this head of the join list. -/
def State.onDuty (s : State) (donor head : Option Station) : Bool :=
  decide (s.join.state = .member) && decide (donor = some s.straps.station) && head.isSome

theorem State.onDuty_iff (s : State) (donor head : Option Station) :
    s.onDuty donor head = true ↔ s.join.state = .member ∧ donor = some s.straps.station ∧ head ≠ none := by
  simp [State.onDuty, and_assoc, Option.isSome_iff_ne_none]

theorem State.evaluateDuty_eq (s : State) (donor head : Option Station) :
    s.evaluateDuty donor head = { s with
      join := { s.join with duty := s.onDuty donor head }
      sched := s.sched.dutyKept (s.onDuty donor head) } := by
  have hduty : (decide (s.join.state = .member) && decide (donor = some s.self) && head.isSome)
      = s.onDuty donor head := rfl
  simp only [State.evaluateDuty, hduty]
  cases s.onDuty donor head
  · cases hheld : s.sched.holds (.control .donor)
    · simp [hheld, Sched.dutyKept, Sched.dutyEnded_of_no_donor, State.withJoin]
    · simp [hheld, Sched.dutyKept, State.askRemoval, Sched.remove_donor_eq, State.withJoin, State.withSched]
  · rfl

/-- With an item on the line the scheduler is not idle, and no ALIVE is queued (08 R140, 06 R96). -/
theorem sched_of_settled_on_line {s t : State} (h : SchedSettled s t) (hline : s.sched.onLine ≠ .nothing) :
    t.sched = s.sched :=
  h.trans (if_neg fun hidle => hline hidle.2.2)

/-- The view of donor and head is taken: the duty, the donor item, and the ALIVE where the scheduler is left idle. -/
theorem execDonorDutyEvaluation_taken {s : State} {own : Option OwnApplication} {donor : Option Station}
    {head : Option (Station × MemberRecord)} {rest : List JoinHandOver} (hr : s.resetHeld = false)
    (hjoin : s.hand.join = .dutyView own donor head :: rest) :
    ∃ t, execDonorDutyEvaluation s = .next t
      ∧ t = { s with
          hand := { s.hand with join := rest }
          join := { s.join with duty := s.onDuty donor (head.map Prod.fst) }
          sched := t.sched }
      ∧ ∀ u : State, u.sched = s.sched.dutyKept (s.onDuty donor (head.map Prod.fst)) → SchedSettled u t := by
  refine ⟨((s.joinTaken rest).evaluateDuty donor (head.map Prod.fst)).settleAlive, ?_, ?_,
    fun u hu => State.settleAlive_settled ?_⟩
  · simp [execDonorDutyEvaluation, State.whenRunning_of_released s _ hr, State.popJoin_eq hjoin, hjoin]
  · rw [State.settleAlive_sched_only, State.evaluateDuty_eq]
    rfl
  · rw [State.evaluateDuty_eq, hu]
    rfl

end Sys2Proof.Machine

namespace Sys2Proof.Joining
open Sys2Proof.Machine Sys2Proof.Safety

/-- Settles O38: the duty decides what becomes of the donor item, and the scheduler is then settled. -/
theorem donorDutyKeepsTheDonorItem : Obligations.DonorDutyKeepsTheDonorItem := by
  intro s own donor head rest hr hjoin
  obtain ⟨t, hexec, heq, hsettled⟩ := execDonorDutyEvaluation_taken hr hjoin
  have hduty : t.join.duty = s.onDuty donor (head.map Prod.fst) := by rw [heq]
  rw [← hduty] at heq hsettled
  refine ⟨t, hexec, heq, ?_, fun hactive hheld => hsettled _ ?_, fun hactive hnone => hsettled _ ?_,
    fun hidle hnone => hsettled _ ?_, fun hidle hheld hline => hsettled _ ?_, fun hidle hheld hline => ?_⟩
  · rw [hduty, State.onDuty_iff, ne_eq, Option.map_eq_none_iff]
  · rw [hactive]
    exact (Sched.queueControl_held s.sched .donor hheld).symm
  · rw [hactive]
    exact (Sched.queueControl_new s.sched .donor hnone).symm
  · rw [hidle]
    exact (Sched.dutyEnded_of_no_donor s.sched hnone).symm
  · rw [hidle]
    exact (Sched.dutyEnded_listed hheld hline).symm
  · have hrescinded : s.sched.dutyKept t.join.duty = { s.sched with rescinded := true } := by
      rw [hidle]
      exact Sched.dutyEnded_on_line hheld hline
    exact sched_of_settled_on_line (hsettled { s with sched := { s.sched with rescinded := true } } hrescinded.symm)
      (by simp [hline])

end Sys2Proof.Joining
end


section
/-! PROOFS. Snapshot frames at the joiner (09 R163 to R165): the load, its end at MEMBER, and the removal of the
outstanding JOIN or FOUND. -/
namespace Sys2Proof.Machine
open Sys2Proof.Safety

/-! ### Entries into LOADING (09 R163) -/

section
variable {s : State}

/-- Loading begins with the join wait loaded; STATE is set where the station leaves FOUNDING (09 R152, R163).
AWAIT_HEAD and LOADING are one state to the host. -/
theorem State.loading_of_asking (h : s.join.state = .founding ∨ s.join.state = .joining .sendJoin) :
    (s.enter (.joining .loading)).loadJoinWait = { s with
      join := { s.join with state := .joining .loading, joinWait := .running s.joinWaitTicks }
      port := if s.join.state = .founding then { s.port with attention := s.port.attention ||| 1 } else s.port } := by
  have hsub : (s.enter (.joining .loading)).loadJoinWait
      = (((s.enter (.joining .awaitHead)).loadJoinWait).enter (.joining .loading)) := rfl
  rw [hsub, State.awaitHead_of_asking h]
  rfl

theorem State.loading_of_awaitHead (h : s.join.state = .joining .awaitHead) :
    (s.enter (.joining .loading)).loadJoinWait = { s with
      join := { s.join with state := .joining .loading, joinWait := .running s.joinWaitTicks } } := by
  rw [State.enter_of_code_eq (by simp [h, StationState.code])]
  rfl

/-! ### The outstanding JOIN or FOUND is gone (09 R165) -/

theorem State.followRecord_loading {cur : Nat}
    (hrecord : s.replica.members[s.straps.station].state = .joining true cur) :
    s.followRecord = (s.enter (.joining .loading)).loadJoinWait := by
  have hown : (s.replica.record s.self).state = .joining true cur := hrecord
  simp only [State.followRecord, hown]

theorem State.followRecord_member (hrecord : s.replica.members[s.straps.station].state = .member) :
    s.followRecord = s.becomeMember := by
  have hown : (s.replica.record s.self).state = .member := hrecord
  simp only [State.followRecord, hown]

/-- The removal of the membership item, by its three answers (06 R105). -/
theorem State.earlySnapshot_on_line (hline : s.sched.onLine = .item (.control .membership)) :
    s.earlySnapshot = { s with sched := { s.sched with rescinded := true } } := by
  simp only [State.earlySnapshot, Sched.remove_on_line _ _ hline]
  rfl

theorem State.earlySnapshot_listed (hline : s.sched.onLine ≠ .item (.control .membership))
    (hheld : s.sched.holds (.control .membership) = true) :
    s.earlySnapshot = (s.withSched (itemGone s.sched (.control .membership))).followRecord := by
  simp only [State.earlySnapshot, Sched.remove_listed _ _ hline hheld, Sched.take_eq_itemGone]

theorem State.earlySnapshot_absent (hline : s.sched.onLine ≠ .item (.control .membership))
    (hnone : s.sched.holds (.control .membership) = false) : s.earlySnapshot = s := by
  simp only [State.earlySnapshot, Sched.remove_absent _ _ hline hnone]
  rfl

end

/-! ### What the Join Controller takes -/

section
variable {s : State} (hr : s.resetHeld = false)
include hr

section
variable {rest : List JoinHandOver}

theorem execOwnSnapheadTaken_awaitHead (hjoin : s.hand.join = .ownSnaphead :: rest)
    (hstate : s.join.state = .joining .awaitHead) :
    execOwnSnapheadTaken s = .next (((s.joinTaken rest).enter (.joining .loading)).loadJoinWait) := by
  simp [execOwnSnapheadTaken, State.whenRunning_of_released s _ hr, State.popJoin_eq hjoin, hjoin, hstate]

theorem execOwnSnapdataTaken_loading {reached : Bool} (hjoin : s.hand.join = .ownSnapdata reached :: rest)
    (hstate : s.join.state = .joining .loading) :
    execOwnSnapdataTaken s = .next
      (if reached then (s.joinTaken rest).becomeMember else (s.joinTaken rest).loadJoinWait) := by
  simp [execOwnSnapdataTaken, State.whenRunning_of_released s _ hr, State.popJoin_eq hjoin, hjoin, hstate]

variable (hasking : s.join.state = .founding ∨ s.join.state = .joining .sendJoin)
include hasking

theorem execOwnSnapheadTaken_asking (hjoin : s.hand.join = .ownSnaphead :: rest) :
    execOwnSnapheadTaken s = .next (s.joinTaken rest).earlySnapshot.settleAlive := by
  have hawait : s.join.state ≠ .joining .awaitHead := by rcases hasking with h | h <;> simp [h]
  simp [execOwnSnapheadTaken, State.whenRunning_of_released s _ hr, State.popJoin_eq hjoin, hjoin, hawait,
    s.join.state.asking_iff.2 hasking]

theorem execOwnSnapdataTaken_asking {reached : Bool} (hjoin : s.hand.join = .ownSnapdata reached :: rest) :
    execOwnSnapdataTaken s = .next (s.joinTaken rest).earlySnapshot.settleAlive := by
  have hloading : s.join.state ≠ .joining .loading := by rcases hasking with h | h <;> simp [h]
  simp [execOwnSnapdataTaken, State.whenRunning_of_released s _ hr, State.popJoin_eq hjoin, hjoin, hloading,
    s.join.state.asking_iff.2 hasking]

end

/-- The state with the removal after a veto told. -/
abbrev State.removalTold (s : State) : State := { s with hand := { s.hand with itemRemoved := false } }

theorem execMembershipItemRemoved_asking (hasking : s.join.state = .founding ∨ s.join.state = .joining .sendJoin)
    (hremoved : s.hand.itemRemoved = true) : execMembershipItemRemoved s = .next s.removalTold.followRecord := by
  simp [execMembershipItemRemoved, State.whenRunning_of_released s _ hr, hremoved, s.join.state.asking_iff.2 hasking,
    State.withHand]

end
end Sys2Proof.Machine

namespace Sys2Proof.Joining
open Sys2Proof.Machine Sys2Proof.Safety

/-- Settles O36: the frame that reaches MEMBER enters it; the others load the join wait. -/
theorem loadingReachesMember : Obligations.LoadingReachesMember := by
  refine ⟨fun s rest hr hjoin hstate => ?_, fun s rest hr => ⟨fun hjoin hstate => ?_, fun hjoin hstate => ?_⟩⟩
  · exact ⟨_, execOwnSnapdataTaken_loading hr hjoin hstate, (s.joinTaken rest).becomeMember_enters⟩
  · exact (execOwnSnapheadTaken_awaitHead hr hjoin hstate).trans
      (congrArg _ (State.loading_of_awaitHead (s := s.joinTaken rest) hstate))
  · exact execOwnSnapdataTaken_loading hr hjoin hstate

/-- Settles O37: by the answer to the removal, at once or after a veto, and then by the station's own record. -/
theorem earlySnapshotCancelsTheJoin : Obligations.EarlySnapshotCancelsTheJoin := by
  refine ⟨fun s reached rest hr hasking => ?_, fun s hr hremoved hasking => ⟨fun cur hrecord => ?_, fun hrecord => ?_⟩⟩
  · intro m result
    have hresult (c : Instr) (hexec : exec c s = .next (s.joinTaken rest).earlySnapshot.settleAlive) : result c := by
      refine ⟨_, hexec, fun hline => ?_, fun cur hline hheld hrecord => ?_, fun hline hheld hrecord => ?_,
        fun hline hnone => ?_⟩
      · rw [State.earlySnapshot_on_line (s := s.joinTaken rest) hline]
        exact State.settleAlive_of_on_line _ fun hnothing => nomatch hline.symm.trans hnothing
      · rw [State.earlySnapshot_listed (s := s.joinTaken rest) hline hheld,
          State.followRecord_loading (s := (s.joinTaken rest).withSched (itemGone s.sched m)) hrecord,
          State.loading_of_asking (s := (s.joinTaken rest).withSched (itemGone s.sched m)) hasking]
        exact ⟨State.settleAlive_settled rfl, State.settleAlive_sched_only _⟩
      · rw [State.earlySnapshot_listed (s := s.joinTaken rest) hline hheld,
          State.followRecord_member (s := (s.joinTaken rest).withSched (itemGone s.sched m)) hrecord]
        exact ⟨_, State.becomeMember_enters _, State.settleAlive_settled rfl, State.settleAlive_sched_only _⟩
      · rw [State.earlySnapshot_absent (s := s.joinTaken rest) hline hnone]
        exact ⟨State.settleAlive_settled rfl, State.settleAlive_sched_only _⟩
    exact ⟨fun hjoin => hresult _ (execOwnSnapheadTaken_asking hr hasking hjoin),
      fun hjoin => hresult _ (execOwnSnapdataTaken_asking hr hasking hjoin)⟩
  · refine (execMembershipItemRemoved_asking hr hasking hremoved).trans (congrArg _ ?_)
    exact (State.followRecord_loading (s := s.removalTold) hrecord).trans
      (State.loading_of_asking (s := s.removalTold) hasking)
  · refine ⟨_, execMembershipItemRemoved_asking hr hasking hremoved, ?_⟩
    rw [State.followRecord_member (s := s.removalTold) hrecord]
    exact s.removalTold.becomeMember_enters

end Sys2Proof.Joining
end


section
/-! PROOFS. The causes of a drop that applications hand over (09 R166, R170, R171). -/
namespace Sys2Proof.Machine
open Sys2Proof.Safety

/-- JOINING and FOUNDING: the states in which a REFUSE can be taken (09 R166). -/
theorem StationState.seeking_iff (st : StationState) :
    st.seeking = true ↔ (∃ sub, st = .joining sub) ∨ st = .founding := by
  cases st <;> simp [seeking]

section
variable {s : State} {rest : List JoinHandOver} (hr : s.resetHeld = false)
include hr

theorem execRefuseTaken_seeking {reason : RefusalReason} (hjoin : s.hand.join = .refused reason :: rest)
    (hstate : s.join.state.seeking = true) :
    execRefuseTaken s = .next ((s.joinTaken rest).setDropCause (.refused reason)) := by
  simp [execRefuseTaken, State.whenRunning_of_released s _ hr, State.popJoin_eq hjoin, hjoin, hstate]

theorem execOwnLeaveApplied_participant (hjoin : s.hand.join = .ownLeave :: rest)
    (hstate : s.join.state.participant = true) :
    execOwnLeaveApplied s = .next ((s.joinTaken rest).setDropCause .left) := by
  simp [execOwnLeaveApplied, State.whenRunning_of_released s _ hr, State.popJoin_eq hjoin, hjoin, hstate]

theorem execEvictNamingSelf_participant (hjoin : s.hand.join = .evictedSelf :: rest)
    (hstate : s.join.state.participant = true) :
    execEvictNamingSelf s = .next ((s.joinTaken rest).setDropCause .evicted) := by
  simp [execEvictNamingSelf, State.whenRunning_of_released s _ hr, State.popJoin_eq hjoin, hjoin, hstate]

end
end Sys2Proof.Machine

namespace Sys2Proof.Joining
open Sys2Proof.Machine Sys2Proof.Safety

/-- Settles O39: each hand-over is taken in its states, and its cause is all that stays. -/
theorem applicationsHandOverDropCauses : Obligations.ApplicationsHandOverDropCauses := by
  intro s rest hr
  exact ⟨fun reason hjoin hstate => execRefuseTaken_seeking hr hjoin (s.join.state.seeking_iff.2 hstate),
    fun hjoin hstate => execOwnLeaveApplied_participant hr hjoin hstate,
    fun hjoin hstate => execEvictNamingSelf_participant hr hjoin hstate⟩

end Sys2Proof.Joining
end


section
/-! PROOFS. RESET, its release and SETUP (10 R176 to R181, Table 10-2): the part while RESET is held, the reset values,
and the configuration of a station. -/
namespace Sys2Proof.Machine
open Sys2Proof.Safety

/-! ### RESET (10 R177) -/

/-- Every command but a reset and its release takes place only while the part runs. -/
theorem exec_whenRunning {c : Instr} (hreset : c ≠ .hardwareReset) (hrelease : ∀ p, c ≠ .resetRelease p) :
    ∃ f, ∀ s, exec c s = s.whenRunning f := by
  cases c with
  | hardwareReset => exact absurd rfl hreset
  | resetRelease p => exact absurd rfl (hrelease p)
  | _ => exact ⟨_, fun _ => rfl⟩

section
variable {s : State} (hheld : s.resetHeld = true)
include hheld

theorem rpy_of_held : rpy s = false := by simp [rpy, hheld]

theorem atn_of_held : atn s = false := by simp [atn, hheld]

/-- While RESET is held, no command but another reset or the release takes place. -/
theorem exec_of_held {c : Instr} (hreset : c ≠ .hardwareReset) (hrelease : ∀ p, c ≠ .resetRelease p) :
    exec c s = .next s := by
  obtain ⟨f, hf⟩ := exec_whenRunning hreset hrelease
  rw [hf, State.whenRunning_of_held s f hheld]

theorem exec_resetRelease_of_held (p : Straps) :
    exec (.resetRelease p) s = .next ((resetState p).withPending s.pending) := congrArg Host.Outcome.next (if_pos hheld)

end

/-! ### The reset values of the replica (01 R27, R28, 02 R49, 10 Table 10-2) -/

section
variable (p : Straps)

theorem locks_emptyReplica :
    (emptyReplica p).locks = List.replicate (64 * (p.lspace.toNat + 1)) ⟨.unknown, [], []⟩ := rfl

theorem members_emptyReplica (v : Station) : (emptyReplica p).members[v.val] = ⟨.absent, 0⟩ :=
  (membersSound_empty p).empty rfl v

theorem joinList_emptyReplica : (emptyReplica p).joinList = [] := rfl

theorem fabric_emptyReplica : (emptyReplica p).fabric = none := rfl

theorem poolUse_emptyReplica : (emptyReplica p).poolUse = 0 := by
  simp [Replica.poolUse, locks_emptyReplica]

theorem stationUse_emptyReplica (v : Station) : (emptyReplica p).stationUse v = 0 := by
  simp [Replica.stationUse, locks_emptyReplica]

end

/-- No frame is kept after reset. -/
theorem ofEveryFrame_resetState (f : Frame → Prop) (p : Straps) : OfEveryFrame f (resetState p) := ⟨nofun, nofun, nofun⟩

/-! ### SETUP (10 R180, R181) -/

theorem setupArgsGood_iff (p m flags : Byte) :
    setupArgsGood [p, m, flags] = true ↔ 4 ≤ p.toNat ∧ 2 ≤ m.toNat ∧ m.toNat ≤ 8 ∧ flags &&& 0x70 = 0 := by
  simp [setupArgsGood, presenceInRange, flagsBitsClear, arg, and_assoc]

/-- SETUP is decided in every state of the station, UNCONFIGURED too. -/
theorem exec_setup_standing {s : State} {bytes : List Byte} (h : Standing s .setup bytes) :
    exec .setup s = .next (State.decideSetup bytes (taken s)) := by
  obtain ⟨hr, hbuffer, hroom⟩ := h
  show execSetup s = _
  rw [execSetup, State.whenRunning_of_released s _ hr, State.takeRequest_standing _ hbuffer hroom,
    if_neg (by simp [RequestKind.beforeSetup])]
  rfl

/-- The configuration that a SETUP brings, the station OUT and the idle measure loaded. -/
theorem State.configure_eq {s : State} (hstate : s.join.state = .unconfigured) (p m flags : Byte) :
    s.configure [p, m, flags] = { s with
      settings := some ⟨p, m, flags.getLsbD 7⟩
      join := { s.join with state := .out }
      pli := { s.pli with idle := .running ((m.toNat + 1) * p.toNat) }
      port := { s.port with mask := flags.extractLsb' 0 4, attention := s.port.attention ||| 1 } } := by
  simp only [State.configure]
  rw [State.enter_of_code_ne (by simp [hstate, StationState.code])]
  rfl

end Sys2Proof.Machine

namespace Sys2Proof.StartUp
open Sys2Proof.Machine Sys2Proof.Safety

/-- Settles O3: a part held in RESET takes no command but a reset or the release, which makes the reset state of it. -/
theorem resetStopsThePartAndReleasesIt : Obligations.ResetStopsThePartAndReleasesIt := by
  refine ⟨fun c s hheld hrelease => ?_, fun s => ⟨_, rfl, rfl, rpy_of_held rfl, atn_of_held rfl⟩, fun p s hheld => ?_⟩
  · by_cases hreset : c = .hardwareReset
    · subst hreset
      exact ⟨_, rfl, rfl, rpy_of_held rfl, atn_of_held rfl, fun h => absurd rfl h⟩
    · exact ⟨s, exec_of_held hheld hreset hrelease, hheld, rpy_of_held hheld, atn_of_held hheld, fun _ => rfl⟩
  · refine ⟨_, exec_resetRelease_of_held hheld p, ?_⟩
    simp [resetState, resetPli, resetSched, resetMonitor, resetJoin, resetPort, resetHand, rpy, atn,
      locks_emptyReplica, members_emptyReplica, joinList_emptyReplica, fabric_emptyReplica, poolUse_emptyReplica,
      stationUse_emptyReplica]

/-- Settles O46: SETUP is decided by the station state first, and by its three arguments then. -/
theorem setupConfiguresTheStation : Obligations.SetupConfiguresTheStation := by
  intro s p m flags hstands
  have hstate : (taken s).join.state = s.join.state := rfl
  rw [exec_setup_standing hstands, State.decideSetup, hstate, ← setupArgsGood_iff]
  refine ⟨fun hconfigured => ?_, fun hnew hbad => ?_, fun hnew hgood => ?_⟩
  · rw [if_pos hconfigured]
    rfl
  · rw [if_neg (not_not.2 hnew), if_neg hbad]
    rfl
  · rw [if_neg (not_not.2 hnew), if_pos hgood, State.configure_eq (hstate.trans hnew)]
    rfl

/-- Settles O58: the reset state counts nothing, queues nothing and keeps no frame; its lock entries are UNKNOWN and its
records ABSENT. -/
theorem resetStatesAreSound : Obligations.ResetStatesAreSound := by
  intro p
  obtain ⟨hlength, hentries⟩ := TableSound.replicate (lockSpace p) entrySound_unknown
  obtain ⟨hlist, hempty⟩ := membersSound_empty p
  exact ⟨Nat.zero_le _, HoldTableSound.nil, ⟨Nat.zero_le _, nofun, nofun, nofun⟩, .empty nofun,
    ⟨hlength, hentries, ofEveryFrame_resetState _ p⟩, ⟨hlist, hempty, ofEveryFrame_resetState _ p⟩, rfl⟩

end Sys2Proof.StartUp
end


section
/-! PROOFS. The configuration of a station (10 R182): its straps, what SETUP fixed, and whether it is UNCONFIGURED still.
Operations leave it alone, or take the station to a state that only a configured one has. -/
namespace Sys2Proof.Machine
open Sys2Proof.Safety

/-- The straps, what SETUP fixes, and whether the station has left UNCONFIGURED. -/
structure Configuration where
  straps : Straps
  settings : Option Settings
  mask : BitVec 4
  configured : Bool

def State.configuration (s : State) : Configuration :=
  ⟨s.straps, s.settings, s.port.mask, decide (s.join.state ≠ .unconfigured)⟩

namespace Configuration
variable {a b : Configuration}

/-- The station is in a state other than UNCONFIGURED. -/
def entered (a : Configuration) : Configuration := { a with configured := true }

/-- The straps hold, and all of it does once the station is configured (10 R182). -/
structure Stands (a b : Configuration) : Prop where
  straps : b.straps = a.straps
  configured : a.configured = true → b = a

namespace Stands

@[simp] theorem refl (a : Configuration) : Stands a a := ⟨rfl, fun _ => rfl⟩

theorem of_eq (h : b = a) : Stands a b := h ▸ refl a

@[simp] theorem entered (a : Configuration) : Stands a a.entered := by
  refine ⟨rfl, fun h => ?_⟩
  cases a
  cases h
  rfl

@[simp] theorem ite {c : Prop} [Decidable c] (h : Stands a b) {d : Configuration} (h' : Stands a d) :
    Stands a (if c then b else d) := by
  split
  · exact h
  · exact h'

end Stands
end Configuration

namespace State
variable (s : State)

/-! ### The named updates of State -/

@[simp] theorem configuration_withPli (x : Pli) : (s.withPli x).configuration = s.configuration := rfl
@[simp] theorem configuration_withIntake (x : Intake) : (s.withIntake x).configuration = s.configuration := rfl
@[simp] theorem configuration_withReplica (x : Replica) : (s.withReplica x).configuration = s.configuration := rfl
@[simp] theorem configuration_withSched (x : Sched) : (s.withSched x).configuration = s.configuration := rfl
@[simp] theorem configuration_withOps (x : OpsUnit) : (s.withOps x).configuration = s.configuration := rfl
@[simp] theorem configuration_withMonitor (x : Monitor) : (s.withMonitor x).configuration = s.configuration := rfl
@[simp] theorem configuration_withHand (x : HandOvers) : (s.withHand x).configuration = s.configuration := rfl

/-- Of the host port the mask alone is configured. -/
@[simp] theorem configuration_withPort {x : HostPort} (h : x.mask = s.port.mask) :
    (s.withPort x).configuration = s.configuration := by
  rw [configuration, withPort_port, h]
  rfl

/-- Of the Join Controller the state alone tells whether the station is configured. -/
@[simp] theorem configuration_withJoin {x : JoinControl} (h : x.state = s.join.state) :
    (s.withJoin x).configuration = s.configuration := by
  simp [configuration, h]

@[simp] theorem configuration_ite (c : Prop) [Decidable c] (a b : State) :
    (if c then a else b).configuration = if c then a.configuration else b.configuration := apply_ite configuration c a b

/-! ### Shared operations -/

@[simp] theorem configuration_attend (a : BitVec 4) : (s.attend a).configuration = s.configuration := rfl

/-- Every state entered is one of a configured station. -/
@[simp] theorem configuration_enter {st : StationState} (h : st ≠ .unconfigured) :
    (s.enter st).configuration = s.configuration.entered := by
  unfold enter
  split <;> simp [configuration, Configuration.entered, attend, HostPort.raise, h]

@[simp] theorem configuration_setLone (b : Bool) : (s.setLone b).configuration = s.configuration := by simp [setLone]

@[simp] theorem configuration_queueControl (i : ControlItem) : (s.queueControl i).configuration = s.configuration := rfl
@[simp] theorem configuration_queueLock (i : LockItem) : (s.queueLock i).configuration = s.configuration := rfl
@[simp] theorem configuration_askRemoval (id : ItemId) : (s.askRemoval id).configuration = s.configuration := rfl
@[simp] theorem configuration_settleAlive : s.settleAlive.configuration = s.configuration := by simp [settleAlive]
@[simp] theorem configuration_reply (r : Reply) : (s.reply r).configuration = s.configuration := rfl
@[simp] theorem configuration_hostError (e : HostError) : (s.hostError e).configuration = s.configuration := rfl

/-! ### Host Port -/

@[simp] theorem configuration_setBuffer (b : RequestBuffer) : (s.setBuffer b).configuration = s.configuration := rfl
@[simp] theorem configuration_undefinedRead : s.undefinedRead.configuration = s.configuration := rfl

@[simp] theorem configuration_kindByte (b : Byte) : (s.kindByte b).configuration = s.configuration := by
  unfold kindByte
  split <;> simp

@[simp] theorem configuration_argumentByte (b : Byte) : (s.argumentByte b).configuration = s.configuration := by
  unfold argumentByte
  split <;> simp

@[simp] theorem configuration_replyByte : s.replyByte.configuration = s.configuration := by
  unfold replyByte
  split
  · refine configuration_withPort s ?_
    unfold HostPort.readByte
    split <;> rfl
  · rfl

/-! ### Operations Unit -/

@[simp] theorem configuration_complete (fits : Operation → Bool) (code : ResultCode) :
    (s.complete fits code).configuration = s.configuration := by
  unfold complete
  split <;> simp

@[simp] theorem configuration_completeAcquire (o : Owner) (l : Byte) (code cancelCode : ResultCode) :
    (s.completeAcquire o l code cancelCode).configuration = s.configuration := by
  unfold completeAcquire
  split <;> simp

@[simp] theorem configuration_setPhase (o : Owner) (l : Byte) (p : AcquirePhase) :
    (s.setPhase o l p).configuration = s.configuration := rfl

@[simp] theorem configuration_movePhase (o : Owner) (l : Byte) (a b : AcquirePhase) :
    (s.movePhase o l a b).configuration = s.configuration := rfl

@[simp] theorem configuration_addHold (o : Owner) (l : Byte) (m : Mode) :
    (s.addHold o l m).configuration = s.configuration := rfl

@[simp] theorem configuration_popNotice : s.popNotice.configuration = s.configuration := rfl
@[simp] theorem configuration_popOps : s.popOps.configuration = s.configuration := rfl

@[simp] theorem configuration_noticeOnLine (n : Notice) : (s.noticeOnLine n).configuration = s.configuration := by
  unfold noticeOnLine
  split <;> simp

@[simp] theorem configuration_noticeAccepted (n : Notice) : (s.noticeAccepted n).configuration = s.configuration := by
  unfold noticeAccepted
  split <;> simp

@[simp] theorem configuration_cancelOutbound (o : Owner) (l : Byte) :
    (s.cancelOutbound o l).configuration = s.configuration := by
  simp only [cancelOutbound]
  split <;> simp

@[simp] theorem configuration_noticeVetoed (n : Notice) (removed : Bool) :
    (s.noticeVetoed n removed).configuration = s.configuration := by
  unfold noticeVetoed claimVetoed
  split
  · split
    · simp
    · split <;> simp
  · simp
  · rfl

@[simp] theorem configuration_beginWithdraw (o : Owner) (l : Byte) (c : WithdrawCause) :
    (s.beginWithdraw o l c).configuration = s.configuration := rfl

@[simp] theorem configuration_claimOutcome (o : Owner) (l : Byte) (out : ClaimOutcome) :
    (s.claimOutcome o l out).configuration = s.configuration := by
  unfold claimOutcome
  split
  · rfl
  · split
    · rfl
    · split <;> simp

@[simp] theorem configuration_freeOutcome (o : Owner) (l : Byte) (out : FreeOutcome) :
    (s.freeOutcome o l out).configuration = s.configuration := by simp [freeOutcome]

@[simp] theorem configuration_withdrawOutcome (o : Owner) (l : Byte) (out : WithdrawOutcome) :
    (s.withdrawOutcome o l out).configuration = s.configuration := by
  unfold withdrawOutcome
  split
  · rfl
  · split
    · split
      · simp
      · split <;> simp
    · rfl

@[simp] theorem configuration_grantNotice (o : Owner) (l : Byte) (m : Mode) :
    (s.grantNotice o l m).configuration = s.configuration := by
  unfold grantNotice
  split
  · simp
  · split <;> simp

@[simp] theorem configuration_flushOutbound : s.flushOutbound.configuration = s.configuration := rfl

/-! ### Presence Monitor -/

@[simp] theorem configuration_loadOwnSilence : s.loadOwnSilence.configuration = s.configuration := rfl
@[simp] theorem configuration_queueEvict (v : Station) : (s.queueEvict v).configuration = s.configuration := rfl

@[simp] theorem configuration_testEviction (v : Station) : (s.testEviction v).configuration = s.configuration := by
  simp [testEviction]

@[simp] theorem configuration_clearLone (h : MonitorHandOver) : (s.clearLone h).configuration = s.configuration := by
  simp [clearLone]

/-- What each round of a loop leaves alone, the loop leaves alone. -/
theorem configuration_foldl {α : Type} {f : State → α → State} (h : ∀ s a, (f s a).configuration = s.configuration)
    (l : List α) : (l.foldl f s).configuration = s.configuration := by
  induction l generalizing s with
  | nil => rfl
  | cons a l ih => exact (ih (f s a)).trans (h s a)

@[simp] theorem configuration_removeEvicts (h : MonitorHandOver) :
    (s.removeEvicts h).configuration = s.configuration := s.configuration_foldl (fun _ _ => by simp) _

@[simp] theorem configuration_retest : s.retest.configuration = s.configuration :=
  s.configuration_foldl (fun _ _ => by simp) _

@[simp] theorem configuration_presenceHandOver (h : MonitorHandOver) :
    (s.presenceHandOver h).configuration = s.configuration := by
  simp [presenceHandOver]

/-! ### Join Controller -/

@[simp] theorem configuration_popJoin : s.popJoin.configuration = s.configuration := rfl

@[simp] theorem configuration_queueMembership (k : MembershipKind) :
    (s.queueMembership k).configuration = s.configuration := rfl

@[simp] theorem configuration_setJoinWait (t : Timer) : (s.setJoinWait t).configuration = s.configuration := rfl
@[simp] theorem configuration_loadJoinWait : s.loadJoinWait.configuration = s.configuration := rfl
@[simp] theorem configuration_setDropCause (r : DropReason) : (s.setDropCause r).configuration = s.configuration := rfl
@[simp] theorem configuration_completeJoin : s.completeJoin.configuration = s.configuration := by simp [completeJoin]

@[simp] theorem configuration_evaluateDuty (donor head : Option Station) :
    (s.evaluateDuty donor head).configuration = s.configuration := by
  simp only [evaluateDuty]
  split
  · simp
  · split <;> simp

@[simp] theorem configuration_becomeMember : s.becomeMember.configuration = s.configuration.entered := by
  simp [becomeMember]

@[simp] theorem configuration_sendJoin : s.sendJoin.configuration = s.configuration.entered := by simp [sendJoin]

@[simp] theorem configuration_enterJoining : s.enterJoining.configuration = s.configuration.entered := by
  simp [enterJoining]

@[simp] theorem configuration_followRecord : s.followRecord.configuration = s.configuration.entered := by
  unfold followRecord
  split <;> simp

@[simp] theorem configuration_discardReplica : s.discardReplica.configuration = s.configuration := by
  simp [discardReplica]

@[simp] theorem configuration_leaveMemberless : s.leaveMemberless.configuration = s.configuration.entered := by
  simp [leaveMemberless]

@[simp] theorem configuration_drop (r : DropReason) : (s.drop r).configuration = s.configuration.entered := by
  simp [drop, dropOps, dropJoin, dropMonitor]

theorem stands_turnToJoining : s.configuration.Stands s.turnToJoining.configuration := by
  unfold turnToJoining
  split <;> simp

theorem stands_earlySnapshot : s.configuration.Stands s.earlySnapshot.configuration := by
  simp only [earlySnapshot]
  split <;> simp

/-! ### The line -/

@[simp] theorem configuration_noticeFor (id : ItemId) (e : NoticeEvent) :
    (s.noticeFor id e).configuration = s.configuration := by
  cases id <;> rfl

@[simp] theorem configuration_endNotice (e : NoticeEvent) : (s.endNotice e).configuration = s.configuration := by
  unfold endNotice
  split <;> simp

@[simp] theorem configuration_winBid : s.winBid.configuration = s.configuration := by
  unfold winBid
  split <;> simp

@[simp] theorem configuration_seeFabric : s.seeFabric.configuration = s.configuration := by
  unfold seeFabric
  split <;> simp

@[simp] theorem configuration_tellJoin (e : ItemEnd) : (s.tellJoin e).configuration = s.configuration := rfl

@[simp] theorem configuration_acceptFrame : s.acceptFrame.configuration = s.configuration := by
  simp [acceptFrame, ownAccepted, releaseLine]

@[simp] theorem configuration_vetoFrame (e : Bool) : (s.vetoFrame e).configuration = s.configuration := by
  simp [vetoFrame, ownVetoed, releaseLine, countOwnVeto, countGivenVeto, withdrawFor]

/-! ### Ticks and applications -/

@[simp] theorem configuration_edge (x : TickSource) : (s.edge x).configuration = s.configuration := by cases x <;> rfl

@[simp] theorem configuration_tick (quiet : Bool) : (s.tick quiet).configuration = s.configuration := rfl

@[simp] theorem configuration_handOn (f : Frame) (a : Applied) : (s.handOn f a).configuration = s.configuration := by
  simp only [handOn]
  split <;> cases a.epoch <;> rfl

@[simp] theorem configuration_applyHead (k : FrameKind) (effect : Frame → State → Option Applied) :
    (s.applyHead k effect).configuration = s.configuration := by
  unfold applyHead
  split
  · split
    · split <;> simp [popFrame]
    · rfl
  · rfl

/-! ### Requests -/

@[simp] theorem configuration_answer (k : RequestKind) (bytes : List Byte) (code : ResultCode) (data : List Byte) :
    (s.answer k bytes code data).configuration = s.configuration := rfl

@[simp] theorem configuration_attach (tag : Byte) (o : Owner) (l : Byte) :
    (s.attach tag o l).configuration = s.configuration := rfl

/-- The configuration stands at a request where it stands at its decision. -/
theorem stands_takeRequest (k : RequestKind) {decision : List Byte → State → State}
    (h : ∀ bytes s, (configuration s).Stands (decision bytes s).configuration) :
    s.configuration.Stands (s.takeRequest k decision).configuration := by
  unfold takeRequest
  split
  · simp
  · split
    · simp
    · exact h _ (s.setBuffer .empty)

variable (bytes : List Byte)

/-- SETUP configures an UNCONFIGURED station only (10 R180). -/
@[simp] theorem stands_decideSetup : s.configuration.Stands (decideSetup bytes s).configuration := by
  refine ⟨congrArg Kept.straps (s.kept_decideSetup bytes), fun hconfigured => ?_⟩
  have hstate : s.join.state ≠ .unconfigured := of_decide_eq_true hconfigured
  rw [decideSetup, if_pos hstate, configuration_answer]

@[simp] theorem stands_decideJoin : s.configuration.Stands (decideJoin bytes s).configuration := by
  unfold decideJoin
  split <;> simp

@[simp] theorem stands_decideDetach : s.configuration.Stands (decideDetach bytes s).configuration := by
  unfold decideDetach
  split <;> simp [startLeaving]

@[simp] theorem configuration_decideAcquire : (decideAcquire bytes s).configuration = s.configuration := by
  simp only [decideAcquire]
  split_ifs
  · rfl
  · rfl
  · rfl
  · split <;> simp [reenter, newClaim, sendClaim]

@[simp] theorem configuration_decideRelease : (decideRelease bytes s).configuration = s.configuration := by
  unfold decideRelease
  split
  · rfl
  · split <;> simp [releaseHeld]

@[simp] theorem configuration_decideCancel : (decideCancel bytes s).configuration = s.configuration := by
  have htarget (a : Acquire) : (s.cancelTarget (arg bytes 0) a).configuration = s.configuration := by
    unfold cancelTarget
    split <;> simp
  unfold decideCancel
  split
  · rfl
  · split <;> simp [htarget]

@[simp] theorem configuration_decideQueryLock : (decideQueryLock bytes s).configuration = s.configuration := by
  simp [decideQueryLock]

@[simp] theorem configuration_decideAck : (decideAck bytes s).configuration = s.configuration := by
  simp [decideAck, HostPort.acknowledge]

end State
end Sys2Proof.Machine
end


section
/-! PROOFS. No command but the release of RESET changes the straps, and none the configuration of a configured station
(10 R182). -/
namespace Sys2Proof.Machine
open Sys2Proof.Safety

namespace Configuration.Stands
variable {s t : State}

/-- A command that takes place only while the part runs. -/
theorem of_whenRunning {f : State → State} (ht : s.whenRunning f = .next t)
    (h : s.configuration.Stands (f s).configuration) : s.configuration.Stands t.configuration := by
  cases hr : s.resetHeld
  · rw [State.whenRunning_of_released s f hr] at ht
    cases ht
    exact h
  · rw [State.whenRunning_of_held s f hr] at ht
    cases ht
    exact .refl _

/-- A command that leaves the configuration alone. -/
theorem of_configuration {f : State → State} (ht : s.whenRunning f = .next t)
    (h : (f s).configuration = s.configuration) : s.configuration.Stands t.configuration := of_whenRunning ht (.of_eq h)

theorem otherFoundApplied (ht : execOtherFoundApplied s = .next t) : s.configuration.Stands t.configuration := by
  refine of_whenRunning ht ?_
  split
  · split
    · exact State.stands_turnToJoining (s.popJoin.withJoin { s.join with latch := true })
    · exact .refl _
  · exact .refl _

theorem ownSnapheadTaken (ht : execOwnSnapheadTaken s = .next t) : s.configuration.Stands t.configuration := by
  have hearly := s.popJoin.stands_earlySnapshot
  rw [State.configuration_popJoin] at hearly
  refine of_whenRunning ht ?_
  split <;> simp [hearly]

theorem ownSnapdataTaken (ht : execOwnSnapdataTaken s = .next t) : s.configuration.Stands t.configuration := by
  have hearly := s.popJoin.stands_earlySnapshot
  rw [State.configuration_popJoin] at hearly
  refine of_whenRunning ht ?_
  split <;> simp [hearly]

end Configuration.Stands

/-- The configuration stands at every command but the release of RESET: those of the Join Controller that may enter a
state come first, then the line's, the applications and the requests, and last those that leave it alone. -/
theorem exec_configurationStands {s t : State} (i : Instr) (ht : exec i s = .next t)
    (hrelease : ∀ p, i ≠ .resetRelease p) : s.configuration.Stands t.configuration := by
  unfold exec at ht
  cases i with
  | resetRelease p => exact absurd rfl (hrelease p)
  | hardwareReset => cases ht; exact .refl _
  | otherFoundApplied => exact .otherFoundApplied ht
  | ownSnapheadTaken => exact .ownSnapheadTaken ht
  | ownSnapdataTaken => exact .ownSnapdataTaken ht
  | joinWaitExpiry =>
    refine .of_whenRunning ht ?_
    split
    · split <;> simp
    · exact .refl _
  | ownJoinApplied | ownFoundApplied | membershipItemRemoved | drop | rejoinTimerExpiry =>
    refine .of_whenRunning ht ?_
    split <;> simp
  | windowClose slots frameStart =>
    refine .of_configuration ht ?_
    split
    · split <;> simp
    · rfl
  | vetoSlotEnd markE markF inPlace => exact .of_configuration ht (by simp)
  | applyClaim | applyFree | applyWithdraw | applyJoin | applyFound | applyLeave | applyEvict | applyRefuse
  | applySnaphead | applySnapdata | applyAlive => exact .of_configuration ht (s.configuration_applyHead _ _)
  | setup | join | detach | acquire | release | cancel | queryLock | ack =>
    exact .of_whenRunning ht (s.stands_takeRequest _ (by simp))
  | queryMembers | queryStation => exact .of_whenRunning ht (s.stands_takeRequest _ fun _ _ => .refl _)
  | lockFrameVetoed =>
    refine .of_configuration ht ?_
    split
    · split <;> simp
    · rfl
  | tick | idleMeasureExpiry | waitTimerExpiry | ownSilenceExpiry | silenceCountdownExpiry | isolationExpiry
  | lineIdleGap | startMark | frameEnd | claimOutcome | freeOutcome | withdrawOutcome | grantNotice | lockFrameOnLine
  | lockFrameAccepted | refuseTaken | ownLeaveApplied | evictNamingSelf | donorDutyEvaluation | presenceHandOver
  | kindByteWrite | argumentByteWrite | replyRead | ownSlotBegins | dominantPulse =>
    refine .of_configuration ht ?_
    split <;> simp

end Sys2Proof.Machine

namespace Sys2Proof.StartUp
open Sys2Proof.Machine Sys2Proof.Safety

/-- Settles O4: commands that enter a state enter one of a configured station, and SETUP alone changes the rest, of an
UNCONFIGURED one. -/
theorem configurationHoldsUntilReset : Obligations.ConfigurationHoldsUntilReset := by
  intro c s t ht hrelease
  obtain ⟨hstraps, hstands⟩ := exec_configurationStands c ht hrelease
  refine ⟨hstraps, fun hstate => ?_⟩
  have hsame : t.configuration = s.configuration := hstands (decide_eq_true hstate)
  have hconfigured : decide (t.join.state ≠ .unconfigured) = true :=
    (congrArg Configuration.configured hsame).trans (decide_eq_true hstate)
  exact ⟨congrArg Configuration.settings hsame, congrArg Configuration.mask hsame, of_decide_eq_true hconfigured⟩

end Sys2Proof.StartUp
end


section
/-! PROOFS. The accesses of the host (11 R184 to R194): the request buffer at kind and argument bytes, the reply queue at
reads, and what the status byte, RPY and ATN show. -/
namespace Sys2Proof.Machine
open Sys2Proof.Safety

/-! ### Accesses that are taken (11 R184) -/

theorem accessTaken_iff (a : HostAccess) : accessTaken a = true ↔ Timely a := by
  simp [accessTaken, recovered, Timely, Config.recoveryTime]

theorem not_timely_of_bothStrobes {a : HostAccess} (h : a.bothStrobes = true) : ¬ Timely a :=
  fun ht => Bool.false_ne_true (ht.1.symm.trans h)

theorem not_timely_of_idleCycles {a : HostAccess} (h : a.idleCycles < 4) : ¬ Timely a := fun ht => Nat.not_le.2 h ht.2

section
variable {s : State} {a : HostAccess} (hr : s.resetHeld = false) (ha : Timely a)
include hr ha

theorem exec_kindByteWrite_timely (b : Byte) : exec (.kindByteWrite a b) s = .next (s.kindByte b) :=
  (State.whenRunning_of_released s _ hr).trans (congrArg _ (if_pos ((accessTaken_iff a).2 ha)))

theorem exec_argumentByteWrite_timely (b : Byte) : exec (.argumentByteWrite a b) s = .next (s.argumentByte b) :=
  (State.whenRunning_of_released s _ hr).trans (congrArg _ (if_pos ((accessTaken_iff a).2 ha)))

theorem exec_replyRead_timely : exec (.replyRead a) s = .next s.replyByte :=
  (congrArg s.whenRunning (funext fun _ => if_pos ((accessTaken_iff a).2 ha))).trans
    (State.whenRunning_of_released s State.replyByte hr)

theorem statusRead_timely : statusRead a s = some (statusByte s) := if_pos ⟨hr, (accessTaken_iff a).2 ha⟩

end

section
variable (s : State) {a : HostAccess} (ha : ¬ Timely a)
include ha

theorem exec_kindByteWrite_ignored (b : Byte) : exec (.kindByteWrite a b) s = .next s :=
  congrArg _ ((congrArg _ (if_neg (mt (accessTaken_iff a).1 ha))).trans (ite_self s))

theorem exec_argumentByteWrite_ignored (b : Byte) : exec (.argumentByteWrite a b) s = .next s :=
  congrArg _ ((congrArg _ (if_neg (mt (accessTaken_iff a).1 ha))).trans (ite_self s))

/-- A read that is ignored leaves the state, or the undefined byte where one strobe was low (log 15). -/
theorem exec_replyRead_ignored :
    exec (.replyRead a) s = s.whenRunning fun s => if a.bothStrobes then s else s.undefinedRead :=
  congrArg s.whenRunning (funext fun _ => if_neg (mt (accessTaken_iff a).1 ha))

end

theorem statusRead_ignored {s : State} {a : HostAccess} (h : s.resetHeld = true ∨ ¬ Timely a) : statusRead a s = none := by
  refine if_neg fun ⟨hr, ha⟩ => ?_
  rcases h with hheld | hlate
  · exact Bool.false_ne_true (hr.symm.trans hheld)
  · exact hlate ((accessTaken_iff a).1 ha)

/-! ### The request buffer (11 R186, R187, R189, Table 11-2) -/

theorem State.setBuffer_of_eq {s : State} {c : RequestBuffer} (h : s.port.buffer = c) : s.setBuffer c = s := by
  subst h
  rfl

/-- Of two errors in a row the later one stands, and HOSTERR is set once. -/
theorem State.hostError_hostError (s : State) (e e' : HostError) : (s.hostError e).hostError e' = s.hostError e' := by
  have hset : s.port.attention ||| attHosterr ||| attHosterr = s.port.attention ||| attHosterr := by
    rw [BitVec.or_assoc, BitVec.or_self]
  simp only [State.hostError, State.withPort, HostPort.raise, hset]

section
variable {s : State} {b : Byte} {k : RequestKind} {bytes : List Byte}

section
variable (h : s.port.buffer = .empty)
include h

theorem State.kindByte_empty_known (hk : requestKindOf b = some k) : s.kindByte b = s.setBuffer (.filling k []) := by
  simp only [State.kindByte, h, hk]

theorem State.kindByte_empty_unknown (hk : requestKindOf b = none) :
    s.kindByte b = (s.setBuffer .empty).hostError .badKind := by
  simp only [State.kindByte, h, hk, State.setBuffer_of_eq h]

theorem State.argumentByte_empty : s.argumentByte b = (s.setBuffer .empty).hostError .stray := by
  simp only [State.argumentByte, h, State.setBuffer_of_eq h]

end

section
variable (h : s.port.buffer = .filling k bytes)
include h

theorem State.kindByte_filling_known {k' : RequestKind} (hk : requestKindOf b = some k') :
    s.kindByte b = (s.setBuffer (.filling k' [])).hostError .truncated := by
  simp only [State.kindByte, h, hk]

theorem State.kindByte_filling_unknown (hk : requestKindOf b = none) :
    s.kindByte b = (s.setBuffer .empty).hostError .badKind := by
  simp only [State.kindByte, h, hk, State.hostError_hostError]

theorem State.argumentByte_filling : s.argumentByte b = s.setBuffer (storedArgument k bytes b) := by
  simp only [State.argumentByte, h]

end

section
variable (h : s.port.buffer = .complete k bytes)
include h

theorem State.kindByte_complete : s.kindByte b = (s.setBuffer (.complete k bytes)).hostError .overrun := by
  simp only [State.kindByte, h, State.setBuffer_of_eq h]

theorem State.argumentByte_complete : s.argumentByte b = (s.setBuffer (.complete k bytes)).hostError .stray := by
  simp only [State.argumentByte, h, State.setBuffer_of_eq h]

end

theorem storedArgument_before_last (h : bytes.length + 1 < k.argCount) :
    storedArgument k bytes b = .filling k (bytes ++ [b]) := if_pos h

theorem storedArgument_last (h : bytes.length + 1 = k.argCount) :
    storedArgument k bytes b = .complete k (bytes ++ [b]) := if_neg h.not_lt

end

/-! ### The reply queue (11 R190, R192) -/

section
variable {s : State} {r : Reply} {rest : List Reply}

/-- The byte at a position within a reply, as a read returns it. -/
theorem Reply.some_getD_bytes {n : Nat} (h : n < r.bytes.length) : some (r.bytes.getD n 0) = r.bytes[n]? := by
  rw [List.getElem?_eq_getElem h, List.getD_eq_getElem _ _ h]

theorem State.replyByte_before_last (hq : s.port.replies = r :: rest) (h : s.port.readPos + 1 < r.bytes.length) :
    s.replyByte = { s with
      port := { s.port with readPos := s.port.readPos + 1, lastRead := r.bytes[s.port.readPos]? } } := by
  simp only [State.replyByte, hq, HostPort.readByte, if_pos h, Reply.some_getD_bytes (Nat.lt_of_succ_lt h)]
  rfl

theorem State.replyByte_last (hq : s.port.replies = r :: rest) (h : s.port.readPos + 1 = r.bytes.length) :
    s.replyByte = { s with
      port := { s.port with replies := rest, readPos := 0, lastRead := r.bytes[s.port.readPos]? } } := by
  have hin : s.port.readPos < r.bytes.length := Nat.lt_of_succ_le h.le
  simp only [State.replyByte, hq, HostPort.readByte, if_neg h.not_lt, Reply.some_getD_bytes hin]
  rfl

theorem State.replyByte_empty (hq : s.port.replies = []) :
    s.replyByte = { s with
      port := { s.port with
        lastRead := some 0, attention := s.port.attention ||| 4, lastError := .underrun } } := by
  simp only [State.replyByte, hq]
  rfl

end

/-- The length byte counts the bytes that follow it, of which the tag, the kind and the result are three. -/
theorem Reply.length_byte (r : Reply) (h : r.data.length ≤ 63) :
    (BitVec.ofNat 8 (3 + r.data.length)).toNat = r.bytes.length - 1
      ∧ (BitVec.ofNat 8 (3 + r.data.length)).toNat = 3 + r.data.length := by
  have hfits : (BitVec.ofNat 8 (3 + r.data.length)).toNat = 3 + r.data.length := Nat.mod_eq_of_lt (by omega)
  have hlength : r.bytes.length = r.data.length + 4 := rfl
  omega

/-! ### The status byte, RPY and ATN (11 R193, R194, Table 11-7) -/

/-- A bit of a byte that is given by its value. -/
theorem getLsbD_ofNat_of_div {n i : Nat} {x : Bool} (hi : i < 8) (h : n / 2 ^ i % 2 = x.toNat) :
    (BitVec.ofNat 8 n).getLsbD i = x := by
  rw [BitVec.getLsbD_ofNat, Nat.testBit_eq_decide_div_mod_eq, h]
  cases x <;> simp [hi]

theorem StationState.code_le (st : StationState) : st.code ≤ 5 := by
  cases st <;> simp [StationState.code]

theorem RequestBuffer.busy_iff (c : RequestBuffer) : c.busy = true ↔ ∃ k bytes, c = .complete k bytes := by
  cases c <;> simp [RequestBuffer.busy]

theorem RequestBuffer.isFilling_iff (c : RequestBuffer) : c.isFilling = true ↔ ∃ k bytes, c = .filling k bytes := by
  cases c <;> simp [RequestBuffer.isFilling]

/-- The fields of the status byte stand side by side, none reaching into the next. -/
theorem statusByte_fields (s : State) :
    ((statusByte s).extractLsb' 0 3).toNat = s.join.state.code
      ∧ (statusByte s).getLsbD 3 = s.port.buffer.busy
      ∧ (statusByte s).getLsbD 4 = !s.port.replies.isEmpty
      ∧ (statusByte s).getLsbD 5 = !decide (s.port.attention &&& s.port.mask = 0)
      ∧ (statusByte s).getLsbD 6 = s.monitor.lone
      ∧ (statusByte s).getLsbD 7 = s.port.buffer.isFilling := by
  have hcode := s.join.state.code_le
  have hbusy := s.port.buffer.busy.toNat_le
  have hreply := (!s.port.replies.isEmpty).toNat_le
  have hreason := (!decide (s.port.attention &&& s.port.mask = 0)).toNat_le
  have hlone := s.monitor.lone.toNat_le
  have hfilling := s.port.buffer.isFilling.toNat_le
  unfold statusByte
  refine ⟨?_, getLsbD_ofNat_of_div ?_ ?_, getLsbD_ofNat_of_div ?_ ?_, getLsbD_ofNat_of_div ?_ ?_,
    getLsbD_ofNat_of_div ?_ ?_, getLsbD_ofNat_of_div ?_ ?_⟩
  · rw [BitVec.extractLsb'_toNat, BitVec.toNat_ofNat, Nat.shiftRight_zero]
    omega
  all_goals omega

theorem rpy_of_released {s : State} (hr : s.resetHeld = false) : rpy s = !s.port.replies.isEmpty := by
  simp [rpy, hr]

theorem atn_of_released {s : State} (hr : s.resetHeld = false) :
    atn s = !decide (s.port.attention &&& s.port.mask = 0) := by
  simp [atn, hr]

theorem rpy_iff (s : State) : rpy s = true ↔ s.resetHeld = false ∧ s.port.replies ≠ [] := by
  simp [rpy]

/-- Two sets of bits have one in common where their common part is not 0. -/
theorem and_ne_zero_iff {w : Nat} (x y : BitVec w) :
    x &&& y ≠ 0 ↔ ∃ n : Nat, x.getLsbD n = true ∧ y.getLsbD n = true := by
  refine ⟨fun hne => ?_, fun ⟨n, hx, hy⟩ hzero => ?_⟩
  · by_contra hnone
    refine hne (BitVec.eq_of_getLsbD_eq fun n _ => ?_)
    simpa using fun hx hy => hnone ⟨n, hx, hy⟩
  · have hbit : (x &&& y).getLsbD n = true := by simp [hx, hy]
    simp [hzero] at hbit

theorem atn_iff (s : State) :
    atn s = true ↔ s.resetHeld = false
      ∧ ∃ n : Nat, s.port.attention.getLsbD n = true ∧ s.port.mask.getLsbD n = true := by
  rw [← and_ne_zero_iff]
  simp [atn]

end Sys2Proof.Machine

namespace Sys2Proof.HostAccesses
open Sys2Proof.Machine Sys2Proof.Safety

/-- Settles O43: timely bytes by the buffer's state and the kind byte's code; an access out of time is ignored. -/
theorem requestBufferTransitions : Obligations.RequestBufferTransitions := by
  refine ⟨fun a b s hr ha => ?_, fun a b s => ⟨fun hboth => ?_, fun hidle => ?_⟩⟩
  · have hkind {t : State} (h : s.kindByte b = t) : exec (.kindByteWrite a b) s = .next t :=
      (exec_kindByteWrite_timely hr ha b).trans (congrArg _ h)
    have harg {t : State} (h : s.argumentByte b = t) : exec (.argumentByteWrite a b) s = .next t :=
      (exec_argumentByteWrite_timely hr ha b).trans (congrArg _ h)
    refine ⟨fun hbuffer => ⟨fun k hk => hkind (State.kindByte_empty_known hbuffer hk), fun hk =>
      hkind (State.kindByte_empty_unknown hbuffer hk), harg (State.argumentByte_empty hbuffer)⟩,
      fun k bytes hbuffer => ⟨fun hmore => ?_, fun hlast => ?_, fun k' hk =>
        hkind (State.kindByte_filling_known hbuffer hk), fun hk => hkind (State.kindByte_filling_unknown hbuffer hk)⟩,
      fun k bytes hbuffer => ⟨hkind (State.kindByte_complete hbuffer), harg (State.argumentByte_complete hbuffer)⟩⟩
    · exact harg ((State.argumentByte_filling hbuffer).trans (congrArg _ (storedArgument_before_last hmore)))
    · exact harg ((State.argumentByte_filling hbuffer).trans (congrArg _ (storedArgument_last hlast)))
  · have hlate := not_timely_of_bothStrobes hboth
    refine ⟨exec_kindByteWrite_ignored s hlate b, exec_argumentByteWrite_ignored s hlate b, ?_⟩
    rw [exec_replyRead_ignored s hlate, hboth]
    exact congrArg _ (ite_self s)
  · have hlate := not_timely_of_idleCycles hidle
    refine ⟨exec_kindByteWrite_ignored s hlate b, exec_argumentByteWrite_ignored s hlate b, _,
      exec_replyRead_ignored s hlate, ?_⟩
    split
    · rfl
    · split <;> rfl

/-- Settles O44: a read by the place of its byte in the oldest reply; the fields of the status byte, RPY and ATN. -/
theorem replyReadReturnsTheNextByte : Obligations.ReplyReadReturnsTheNextByte := by
  refine ⟨fun a s hr ha => ?_, fun r hdata => ?_, fun a s => ⟨statusRead_ignored, fun hr ha => ?_⟩,
    fun s => ⟨rpy_iff s, atn_iff s⟩⟩
  · rw [exec_replyRead_timely hr ha]
    exact ⟨fun r rest hq => ⟨fun h => congrArg _ (State.replyByte_before_last hq h), fun h =>
      congrArg _ (State.replyByte_last hq h)⟩, fun hq => congrArg _ (State.replyByte_empty hq)⟩
  · obtain ⟨hcounts, hvalue⟩ := r.length_byte hdata
    exact ⟨_, rfl, hcounts, by omega, by omega⟩
  · obtain ⟨hcode, hbusy, hreply, hreason, hlone, hfilling⟩ := statusByte_fields s
    refine ⟨_, statusRead_timely hr ha, hcode.trans ?_, ?_, hreply.trans (rpy_of_released hr).symm,
      hreason.trans (atn_of_released hr).symm, hlone, ?_⟩
    · cases s.join.state <;> rfl
    · rw [hbusy, RequestBuffer.busy_iff]
    · rw [hfilling, RequestBuffer.isFilling_iff]

end Sys2Proof.HostAccesses
end


section
/-! PROOFS. The queries and ACK (11 R196 to R199): each is decided at once, on the state as it stands. -/
namespace Sys2Proof.Machine
open Sys2Proof.Safety

/-! ### The queries (11 R197 to R199) -/

/-- A request that is decided in UNCONFIGURED too leaves the buffer and is decided, in every state. -/
theorem takeRequest_decides_beforeSetup {s : State} {k : RequestKind} {bytes : List Byte}
    (decision : List Byte → State → State) (hstands : Standing s k bytes) (hk : k.beforeSetup = true) :
    (s.whenRunning fun s => s.takeRequest k decision) = .next (decision bytes (taken s)) := by
  obtain ⟨hr, hbuffer, hroom⟩ := hstands
  rw [State.whenRunning_of_released s _ hr, State.takeRequest_standing decision hbuffer hroom, if_neg (by simp [hk])]
  rfl

section
variable {s : State} {bytes : List Byte}

theorem State.decideQueryLock_badLock (h : lockSpace s.straps ≤ (arg bytes 1).toNat) :
    s.decideQueryLock bytes = s.answer .queryLock bytes .badLock [] := if_pos (decide_eq_true h)

theorem State.decideQueryLock_done (h : (arg bytes 1).toNat < lockSpace s.straps) :
    s.decideQueryLock bytes
      = s.answer .queryLock bytes .done (entryBytes (arg bytes 1) (s.replica.entry (arg bytes 1))) :=
  if_neg (by simpa [State.badLock] using h)

end

theorem StationState.subCode_le (st : StationState) : st.subCode ≤ 3 := by
  cases st with
  | joining sub => cases sub <;> decide
  | _ => exact Nat.zero_le 3

/-- Byte 9 of Table 11-9: the attention set, two bits that are 0, epoch-valid and LONE. -/
theorem flagsByte_fields (reasons : BitVec 4) (valid lone : Bool) :
    let x : Byte := BitVec.ofNat 8 (reasons.toNat + 64 * valid.toNat + 128 * lone.toNat)
    x.extractLsb' 0 4 = reasons ∧ x.extractLsb' 4 2 = 0 ∧ x.getLsbD 6 = valid ∧ x.getLsbD 7 = lone := by
  have hreasons := reasons.isLt
  have hvalid := valid.toNat_le
  have hlone := lone.toNat_le
  refine ⟨BitVec.eq_of_toNat_eq ?_, BitVec.eq_of_toNat_eq ?_, getLsbD_ofNat_of_div ?_ ?_, getLsbD_ofNat_of_div ?_ ?_⟩
  · rw [BitVec.extractLsb'_toNat, BitVec.toNat_ofNat, Nat.shiftRight_zero]
    omega
  · rw [BitVec.extractLsb'_toNat, BitVec.toNat_ofNat, Nat.shiftRight_eq_div_pow]
    change _ = 0
    omega
  all_goals omega

/-- A count that fits a byte is the byte's value. -/
theorem toNat_ofNat_of_le {n m : Nat} (h : n ≤ m) (hm : m < 256) : (BitVec.ofNat 8 n).toNat = n :=
  Nat.mod_eq_of_lt (Nat.lt_of_le_of_lt h hm)

/-! ### ACK (11 R196) -/

section
variable {s : State} {mask : Byte}

theorem State.decideAck_badArg (h : mask &&& 0xF0 ≠ 0) : s.decideAck [mask] = s.answer .ack [mask] .badArg [] :=
  if_neg (by simpa [highBitsClear, arg] using h)

theorem State.decideAck_done (h : mask &&& 0xF0 = 0) :
    s.decideAck [mask]
      = (s.withPort (s.port.acknowledge (mask.extractLsb' 0 4))).answer .ack [mask] .done [] :=
  if_pos (decide_eq_true h)

end

end Sys2Proof.Machine

namespace Sys2Proof.HostRequests
open Sys2Proof.Machine Sys2Proof.Safety

/-- Settles O51: each query is decided on the replica and the station as they stand, and its bytes are read off. -/
theorem queriesShowTheReplicaAndTheStation : Obligations.QueriesShowTheReplicaAndTheStation := by
  refine ⟨fun s tag l hconf => ⟨fun hstands => ⟨fun hbad => ?_, fun hgood => ?_⟩, fun hstands => ?_⟩,
    fun s tag hstands => ⟨s.stationData, ?_, rfl, ?_⟩⟩
  · exact (takeRequest_decides State.decideQueryLock hstands hconf).trans
      (congrArg _ (State.decideQueryLock_badLock (s := taken s) hbad))
  · exact (takeRequest_decides State.decideQueryLock hstands hconf).trans
      (congrArg _ (State.decideQueryLock_done (s := taken s) hgood))
  · exact takeRequest_decides State.decideQueryMembers hstands hconf
  · exact takeRequest_decides_beforeSetup State.decideQueryStation hstands rfl
  · have hcode := s.join.state.code_le
    have hsub := s.join.state.subCode_le
    obtain ⟨hreasons, hzero, hvalid, hlone⟩ := flagsByte_fields s.port.attention s.intake.valid s.monitor.lone
    exact ⟨toNat_ofNat_of_le (m := 53) (by omega) (by decide), rfl,
      toNat_ofNat_of_le s.pli.ownVeto.isLt.le (by decide), toNat_ofNat_of_le s.pli.givenVeto.isLt.le (by decide),
      (toNat_ofNat_of_le · (by decide)), (toNat_ofNat_of_le · (by decide)), (toNat_ofNat_of_le · (by decide)),
      BitVec.extractLsb'_append_extractLsb' (w := 8) (len := 8), hreasons, hzero, hvalid, hlone, rfl⟩

/-- Settles O52: NOT_CONFIGURED before SETUP; then the high bits of the mask decide. -/
theorem ackClearsTheNamedReasons : Obligations.AckClearsTheNamedReasons := by
  intro s mask hstands
  refine ⟨fun hstate => ?_, fun hconf hbits => ?_, fun hconf hbits => ?_⟩
  · exact (LocalOperations.requestsWaitOrAreNotConfigured .ack s).2 [mask] hstands hstate (by decide) (by decide)
  · exact (takeRequest_decides State.decideAck hstands hconf).trans (congrArg _ (State.decideAck_badArg hbits))
  · exact (takeRequest_decides State.decideAck hstands hconf).trans (congrArg _ (State.decideAck_done hbits))

end Sys2Proof.HostRequests
end


section
/-! PROOFS. A step by the queue of commands that wait (chapter 95; log 28): one equation for each shape of the queue. -/
namespace Sys2Proof.Machine

theorem step_of_pending_cons {s : State} {c : Instr} {rest : List Instr} (hfront : s.pending = c :: rest) :
    step s = exec c (s.withPending rest) := by
  rw [step, hfront]

theorem step_of_pending_nil {s : State} (hempty : s.pending = []) : step s = .next s := by
  rw [step, hempty]

end Sys2Proof.Machine

namespace Sys2Proof.Steps
open Sys2Proof.Machine

/-- Settles O1: the queue is a command in front of a rest, or it is empty. -/
theorem stepRunsTheCommandInFront : Obligations.StepRunsTheCommandInFront :=
  ⟨fun _ _ _ hfront => step_of_pending_cons hfront, fun _ hempty => step_of_pending_nil hempty⟩

end Sys2Proof.Steps
end
